-- ==== Sys2Proof/Word.lean ====
section
/-! DEFINITION. The machine's one word type, the byte, and its wrap-around (rule R11). -/

namespace Sys2Proof

/-- A register, a memory cell, an operand byte, an address or a PC value: `u8` (rule R11). -/
abbrev Byte := BitVec 8

/-- `wrap8(v) = v mod 256` for a natural number (rule R11). -/
def wrap8 (v : Nat) : Byte := BitVec.ofNat 8 v

end Sys2Proof
end

