-- ==== Sys2Proof/Syntax.lean ====
section
/-! DEFINITION. The 32 instructions of rule R104, one constructor each. An operand is the whole operand byte (rules R103,
R107): whether it names a register is `regidx`'s question (rule R108), asked when the instruction executes. -/

namespace Sys2Proof

/-- An instruction with its operand bytes in memory order (rule R103). -/
inductive Instr where
  /-- F0, rule R252. -/
  | hlt
  /-- F0, rule R195. -/
  | ret
  /-- F0, rule R196. -/
  | iret
  /-- F1R, rule R192. -/
  | push (ra : Byte)
  /-- F1R, rule R193. -/
  | pop (ra : Byte)
  /-- F1R, rule R250. -/
  | prn (ra : Byte)
  /-- F1R, rule R251. -/
  | pra (ra : Byte)
  /-- F1R, rule R194. -/
  | call (ra : Byte)
  /-- F1R, rule R211. -/
  | jmp (ra : Byte)
  /-- F1R, rule R212. -/
  | jeq (ra : Byte)
  /-- F1R, rule R213. -/
  | jne (ra : Byte)
  /-- F1R, rule R215. -/
  | jgt (ra : Byte)
  /-- F1R, rule R214. -/
  | jlt (ra : Byte)
  /-- F1R, rule R216. -/
  | jle (ra : Byte)
  /-- F1R, rule R217. -/
  | jge (ra : Byte)
  /-- F1R, rule R230. -/
  | inc (ra : Byte)
  /-- F1R, rule R231. -/
  | dec (ra : Byte)
  /-- F1R, rule R166. -/
  | not (ra : Byte)
  /-- F2RI, rule R240. -/
  | ldi (ra imm : Byte)
  /-- F2RR, rule R241. -/
  | ld (ra rb : Byte)
  /-- F2RR, rule R242. -/
  | st (ra rb : Byte)
  /-- F2RR, rule R155. -/
  | add (ra rb : Byte)
  /-- F2RR, rule R156. -/
  | sub (ra rb : Byte)
  /-- F2RR, rule R157. -/
  | mul (ra rb : Byte)
  /-- F2RR, rule R158. -/
  | div (ra rb : Byte)
  /-- F2RR, rule R159. -/
  | mod (ra rb : Byte)
  /-- F2RR, rule R170. -/
  | cmp (ra rb : Byte)
  /-- F2RR, rule R162. -/
  | and (ra rb : Byte)
  /-- F2RR, rule R163. -/
  | or (ra rb : Byte)
  /-- F2RR, rule R164. -/
  | xor (ra rb : Byte)
  /-- F2RR, rule R167. -/
  | shl (ra rb : Byte)
  /-- F2RR, rule R168. -/
  | shr (ra rb : Byte)
  deriving DecidableEq, Repr

end Sys2Proof
end

