-- ==== Sys2Proof/WellFormed.lean ====
section
/-! DEFINITION. Well-formed instructions: every register operand byte names a register (rule R108). The immediate byte of
LDI is never checked (rule R240). -/

namespace Sys2Proof

/-- The byte names one of R0-R7 (rule R108). -/
def isRegister (b : Byte) : Bool := decide (b.toNat ≤ 7)

/-- The register operand bytes of an instruction, in the order in which they are checked (rules R103, R305). -/
def Instr.registerOperands : Instr → List Byte
  | .hlt => []
  | .ret => []
  | .iret => []
  | .push ra => [ra]
  | .pop ra => [ra]
  | .prn ra => [ra]
  | .pra ra => [ra]
  | .call ra => [ra]
  | .jmp ra => [ra]
  | .jeq ra => [ra]
  | .jne ra => [ra]
  | .jgt ra => [ra]
  | .jlt ra => [ra]
  | .jle ra => [ra]
  | .jge ra => [ra]
  | .inc ra => [ra]
  | .dec ra => [ra]
  | .not ra => [ra]
  | .ldi ra _ => [ra]
  | .ld ra rb => [ra, rb]
  | .st ra rb => [ra, rb]
  | .add ra rb => [ra, rb]
  | .sub ra rb => [ra, rb]
  | .mul ra rb => [ra, rb]
  | .div ra rb => [ra, rb]
  | .mod ra rb => [ra, rb]
  | .cmp ra rb => [ra, rb]
  | .and ra rb => [ra, rb]
  | .or ra rb => [ra, rb]
  | .xor ra rb => [ra, rb]
  | .shl ra rb => [ra, rb]
  | .shr ra rb => [ra, rb]

/-- Every register operand names a register (rule R108). -/
def Instr.wellFormed (i : Instr) : Bool := i.registerOperands.all isRegister

/-- The first operand byte that names no register, if there is one (rules R108, R305). -/
def Instr.badOperand (i : Instr) : Option Byte := i.registerOperands.find? (fun b => !isRegister b)

end Sys2Proof
end

