-- ==== Sys2Proof/Decode.lean ====
section
/-! DEFINITION. The decoder (rules R100-R112) and the encoder. The operation comes from the whole opcode byte through the
one table `opcodeMap` (rule R104, `OPCODE_MAP` of rule R9); the operand count and the PC-setting bit come from the opcode's
bits alone (rule R102). -/

namespace Sys2Proof

/-- The four formats of rule R103, each with the instruction it builds from the operand bytes. -/
inductive Form where
  | f0 (i : Instr)
  | f1R (mk : Byte → Instr)
  | f2RR (mk : Byte → Byte → Instr)
  | f2RI (mk : Byte → Byte → Instr)

/-- The instruction of a format from the two bytes that follow the opcode; a byte beyond the format is not used. -/
def Form.build : Form → Byte → Byte → Instr
  | .f0 i, _, _ => i
  | .f1R mk, b1, _ => mk b1
  | .f2RR mk, b1, b2 => mk b1 b2
  | .f2RI mk, b1, b2 => mk b1 b2

/-- The operand bytes a format has (rule R103). -/
def Form.operands : Form → Nat
  | .f0 _ => 0
  | .f1R _ => 1
  | .f2RR _ => 2
  | .f2RI _ => 2

/-- A row of the opcode map. -/
structure OpcodeRow where
  opcode : Byte
  form : Form

/-- The rows of rule R104 with no operand or one. -/
def opcodeMapShort : List OpcodeRow :=
  [⟨0x01, .f0 .hlt⟩, ⟨0x11, .f0 .ret⟩, ⟨0x13, .f0 .iret⟩,
   ⟨0x45, .f1R .push⟩, ⟨0x46, .f1R .pop⟩, ⟨0x47, .f1R .prn⟩, ⟨0x48, .f1R .pra⟩,
   ⟨0x50, .f1R .call⟩, ⟨0x54, .f1R .jmp⟩, ⟨0x55, .f1R .jeq⟩, ⟨0x56, .f1R .jne⟩,
   ⟨0x57, .f1R .jgt⟩, ⟨0x58, .f1R .jlt⟩, ⟨0x59, .f1R .jle⟩, ⟨0x5A, .f1R .jge⟩,
   ⟨0x65, .f1R .inc⟩, ⟨0x66, .f1R .dec⟩, ⟨0x69, .f1R .not⟩]

/-- The rows of rule R104 with two operands. -/
def opcodeMapLong : List OpcodeRow :=
  [⟨0x82, .f2RI .ldi⟩, ⟨0x83, .f2RR .ld⟩, ⟨0x84, .f2RR .st⟩,
   ⟨0xA0, .f2RR .add⟩, ⟨0xA1, .f2RR .sub⟩, ⟨0xA2, .f2RR .mul⟩, ⟨0xA3, .f2RR .div⟩,
   ⟨0xA4, .f2RR .mod⟩, ⟨0xA7, .f2RR .cmp⟩, ⟨0xA8, .f2RR .and⟩, ⟨0xAA, .f2RR .or⟩,
   ⟨0xAB, .f2RR .xor⟩, ⟨0xAC, .f2RR .shl⟩, ⟨0xAD, .f2RR .shr⟩]

/-- `OPCODE_MAP`, the closed table of rule R104. UNVERIFIED (log entry 14): the spec takes the values from general
knowledge. -/
def opcodeMap : List OpcodeRow := opcodeMapShort ++ opcodeMapLong

/-- `n = ir[7:6]`, the operand count, from the opcode's bits alone (rules R101, R102). -/
def operandCount (op : Byte) : Nat := (op >>> 6).toNat

/-- `setsPC = ir[4]`, the PC-setting bit, from the opcode's bits alone (rules R101, R102). -/
def setsPc (op : Byte) : Bool := op.getLsbD 4

/-- The row of an opcode, if it is implemented (rules R104, R105). -/
def opcodeRow (op : Byte) : Option OpcodeRow := opcodeMap.find? (fun r => r.opcode == op)

/-- The instruction of an opcode and the two bytes after it; none for an unimplemented opcode (rules R105, R107). -/
def decodeOp (op b1 b2 : Byte) : Option Instr := (opcodeRow op).map (fun r => r.form.build b1 b2)

/-- Why a sequence of bytes is no instruction. -/
inductive DecodeError where
  /-- The first byte is no opcode of rule R104 (rule R105). -/
  | unimplementedInstruction (opcode : Byte)
  /-- The sequence ends before the instruction does. The machine never meets this: its memory has no end (rule R75). -/
  | truncated
  deriving DecidableEq, Repr

/-- What the decoder makes of a sequence of bytes. -/
inductive Decoded where
  | ok (i : Instr) (rest : List Byte)
  | rejected (e : DecodeError)
  deriving DecidableEq, Repr

/-- The decoder on a sequence of bytes: the first instruction and the bytes after it, or the reason there is none.
The length comes from the opcode's bits 7-6 (rule R112). -/
def decode : List Byte → Decoded
  | [] => .rejected .truncated
  | op :: rest =>
    match decodeOp op (rest.getD 0 0) (rest.getD 1 0) with
    | none => .rejected (.unimplementedInstruction op)
    | some i =>
      if rest.length < operandCount op then .rejected .truncated
      else .ok i (rest.drop (operandCount op))

/-- The encoder, written from the "Encoding" line of each instruction's rule. -/
def encode : Instr → List Byte
  | .hlt => [0x01]
  | .ret => [0x11]
  | .iret => [0x13]
  | .push ra => [0x45, ra]
  | .pop ra => [0x46, ra]
  | .prn ra => [0x47, ra]
  | .pra ra => [0x48, ra]
  | .call ra => [0x50, ra]
  | .jmp ra => [0x54, ra]
  | .jeq ra => [0x55, ra]
  | .jne ra => [0x56, ra]
  | .jgt ra => [0x57, ra]
  | .jlt ra => [0x58, ra]
  | .jle ra => [0x59, ra]
  | .jge ra => [0x5A, ra]
  | .inc ra => [0x65, ra]
  | .dec ra => [0x66, ra]
  | .not ra => [0x69, ra]
  | .ldi ra imm => [0x82, ra, imm]
  | .ld ra rb => [0x83, ra, rb]
  | .st ra rb => [0x84, ra, rb]
  | .add ra rb => [0xA0, ra, rb]
  | .sub ra rb => [0xA1, ra, rb]
  | .mul ra rb => [0xA2, ra, rb]
  | .div ra rb => [0xA3, ra, rb]
  | .mod ra rb => [0xA4, ra, rb]
  | .cmp ra rb => [0xA7, ra, rb]
  | .and ra rb => [0xA8, ra, rb]
  | .or ra rb => [0xAA, ra, rb]
  | .xor ra rb => [0xAB, ra, rb]
  | .shl ra rb => [0xAC, ra, rb]
  | .shr ra rb => [0xAD, ra, rb]

/-- The opcode byte of an instruction: the first byte of its encoding (rule R100). -/
def Instr.opcode (i : Instr) : Byte := (encode i).headD 0

/-- The three bytes at and after an address that hold an instruction given as one number: bit 0 of the number is the least
significant bit of the first byte, a later byte's bits count on from it, and the bits above `nbits` are 0. -/
def tableBytes (nbits w : Nat) : List Byte :=
  let v := w % 2 ^ nbits
  [wrap8 v, wrap8 (v / 256), wrap8 (v / 65536)]

/-- The instruction the decoder reads from an instruction whose bits are `w`. -/
def decodeTableWord (nbits w : Nat) : Option Instr :=
  match decode (tableBytes nbits w) with
  | .ok i _ => some i
  | .rejected _ => none

end Sys2Proof
end

