-- ==== Sys2Proof/Config.lean ====
section
/-! DEFINITION. The implementation parameters of rule R9 that are not addresses or opcodes: the two parameters with a
choice (`SHIFT_SEMANTICS`, `POLL_RATE`) as plain data, and the constants that fix the reset state; and
the free values of the interleaving (rules R8, R371). -/

namespace Sys2Proof.Machine

/-- What the keyboard poll of one source cycle yields (rules R17, R328). -/
inductive Poll where
  /-- `None`: no key was buffered. -/
  | noKey
  /-- `Key(k)`: a key other than the quit key, as the byte the host's `KEY_MAP` gives it. -/
  | key (k : Byte)
  /-- `Quit`: the designated quit key. -/
  | quit
  /-- The poll failed, which counts as `None` (rule R328). -/
  | failed
  deriving DecidableEq, Repr, Inhabited

/-- DESIGN CHOICE (log entry 1): one entry of the schedule, which says which agent makes the next atomic action (rules R8,
R83) and, for the Interrupt Source, what its poll yields (rule R17). -/
inductive Turn where
  | engine
  | source (p : Poll)
  deriving DecidableEq, Repr

end Sys2Proof.Machine

namespace Sys2Proof.Config

/-- `SHIFT_SEMANTICS` (rules R9, R169): true shifts, or the source's AND. -/
inductive ShiftSemantics where
  | intended
  | sourceAnd
  deriving DecidableEq, Repr

/-- The parameters a machine is built with. They are data of the machine, so that a statement holds for
every choice of them; no step writes them. -/
structure Params where
  /-- `SHIFT_SEMANTICS`, rules R9 and R169. -/
  shiftSemantics : ShiftSemantics
  /-- `POLL_RATE`, rules R9 and R322: source cycles in one timer period. -/
  pollRate : Nat
  deriving DecidableEq, Repr

/-- The defaults of rule R9: true shifts, 60 cycles. -/
def defaultParams : Params := { shiftSemantics := .intended, pollRate := 60 }

/-- `SP_RESET` (rules R9, R33). UNVERIFIED (log entry 13): the spec's own decision D6. -/
def spReset : Byte := 0xF4

/-- `MEM_FILL` (rules R9, R78): what a memory byte holds that nothing has written. UNVERIFIED (log entry 13):
the spec's own decision D8. -/
def memFill : Byte := 0x00

/-- FREE VALUE (log entry 1): turns in any number and any order, the `n`-th time that any are drawn (rules R8, R371: the ratio
of engine actions to source cycles is free). It has no value that a proof could see. -/
opaque freeTurns : Nat → List Machine.Turn

/-- FREE VALUE (log entry 1): the poll of the source's turn that ends the `n`-th block (rules R17, R371). -/
opaque freePoll : Nat → Machine.Poll

end Sys2Proof.Config
end

