-- ==== Sys2Proof/Machine/Memory.lean ====
section
/-! DEFINITION. The memory (rules R70, R78): 256 bytes, held as a list of (address, byte) pairs in one canonical form. An
address that is not listed reads as `MEM_FILL` (rule R78). -/

namespace Sys2Proof.Machine

/-- Memory as data: the bytes that differ from `MEM_FILL`, by address. DESIGN CHOICE (log entry 11). -/
abbrev Memory := List Host.Cell

/-- The canonical form: addresses strictly rising, all inside the 256 bytes (rule R70), and no entry equal to what an
unlisted address reads as. -/
abbrev Memory.wf (m : Memory) : Prop :=
  m.Pairwise (fun c d => c.1 < d.1) ∧ ∀ c ∈ m, c.1 < 256 ∧ c.2 ≠ Config.memFill

/-- The byte at an address (rule R13, `MemRead`). -/
def Memory.read : Memory → Nat → Byte
  | [], _ => Config.memFill
  | c :: rest, a => if c.1 = a then c.2 else Memory.read rest a

/-- List a byte at its place. -/
def Memory.insert : Memory → Nat → Byte → Memory
  | [], a, v => [(a, v)]
  | c :: rest, a, v =>
    if a < c.1 then (a, v) :: c :: rest
    else if a = c.1 then (a, v) :: rest
    else c :: Memory.insert rest a v

/-- Unlist an address. -/
def Memory.erase (m : Memory) (a : Nat) : Memory := m.filter (fun c => c.1 != a)

/-- Store a byte (rule R13, `MemWrite`), keeping the canonical form: a byte equal to `MEM_FILL` is unlisted. -/
def Memory.write (m : Memory) (a : Nat) (v : Byte) : Memory :=
  if v = Config.memFill then m.erase a else m.insert a v

/-- Store a sequence of bytes at rising addresses (rule R15). -/
def Memory.writeAll : Memory → Nat → List Byte → Memory
  | m, _, [] => m
  | m, a, v :: vs => Memory.writeAll (m.write a v) (a + 1) vs

end Sys2Proof.Machine
end

