-- ==== Sys2Proof/Machine/State.lean ====
section
/-! DEFINITION. The machine's state, whole (rule R48), the reasons a step can stop, and the state after reset (rule R350). -/

namespace Sys2Proof.Machine

/-- A general register's name (rule R30). -/
inductive Reg where
  | r0
  | r1
  | r2
  | r3
  | r4
  /-- IM, the interrupt mask (rule R31). -/
  | r5
  /-- IS, the interrupt status (rule R32). -/
  | r6
  /-- SP, the stack pointer (rule R33). -/
  | r7
  deriving DecidableEq, Repr

/-- The register file R0-R7 (rule R30): one bank, eight bytes. -/
structure Regs where
  r0 : Byte
  r1 : Byte
  r2 : Byte
  r3 : Byte
  r4 : Byte
  r5 : Byte
  r6 : Byte
  r7 : Byte
  deriving DecidableEq, Repr

/-- The two instructions that divide: the `op` of a `DivisionByZero` record (rule R300). -/
inductive DivisionOp where
  | div
  | mod
  deriving DecidableEq, Repr

/-- The record of a fatal error: the three kinds of rule R300 and what each records. -/
inductive FaultInfo where
  /-- Raised by EX on an opcode that is not in the map (rule R105). -/
  | unimplementedInstruction (opcode pc : Byte)
  /-- Raised by DIV and MOD when the divisor register is zero (rules R158, R159). -/
  | divisionByZero (op : DivisionOp) (pc : Byte)
  /-- Raised by every instruction with a register operand when the operand byte is above 7 (rule R108). -/
  | invalidRegister (opcode pc operand : Byte)
  deriving DecidableEq, Repr

/-- The run's terminal status (rules R18, R46). -/
inductive RunStatus where
  | running
  | halt
  | quit
  | fault (info : FaultInfo)
  deriving DecidableEq, Repr

/-- The atomic action the engine takes next (rule R140). -/
inductive Phase where
  | ea
  | eb
  | ex
  | ef
  deriving DecidableEq, Repr

/-- An event of the output stream (rule R16). -/
inductive OutEvent where
  /-- `Out(Num, v)`, from PRN (rule R250). -/
  | num (v : Byte)
  /-- `Out(Char, v)`, from PRA (rule R251). -/
  | char (v : Byte)
  deriving DecidableEq, Repr

/-- Every piece of state the spec gives the machine (rule R48), and three fields of the model's own: `params`,
the parameters of rule R9, and `schedule` and `drawn`, the free interleaving of rules R8 and R371. -/
structure State where
  /-- R0-R7, with IM = R5, IS = R6 and SP = R7 (rules R30-R34). -/
  regs : Regs
  /-- The program counter (rules R35, R36). -/
  pc : Byte
  /-- The instruction register (rule R37). -/
  ir : Byte
  /-- The flags register: bit 2 is L, bit 1 is G, bit 0 is E (rules R38, R39). -/
  fl : BitVec 3
  /-- Interrupts enabled (rule R40). -/
  ie : Bool
  /-- Halted (rule R41). -/
  halted : Bool
  /-- The shared last-key byte (rule R42). -/
  lastKey : Byte
  /-- The shared termination request (rule R43). -/
  termReq : Bool
  /-- The Interrupt Source's tick counter (rule R44). -/
  tick : Nat
  /-- The engine's request that the source stop (rule R45). -/
  srcStop : Bool
  /-- The Interrupt Source task runs (rule R45). -/
  srcLive : Bool
  /-- The run's terminal status (rule R46). -/
  status : RunStatus
  /-- The 256 bytes of memory (rule R70). -/
  mem : Memory
  /-- The output stream, oldest event first (rules R16, R253). -/
  out : List OutEvent
  /-- The engine's next action (rule R140). -/
  phase : Phase
  /-- The model's own field: the parameters of rule R9 (log entry 8). -/
  params : Config.Params
  /-- The model's own field: the turns to come before the next free block is drawn, next turn first (log entry 1). -/
  schedule : List Turn
  /-- The model's own field: how many free blocks of turns have been drawn (log entry 1). -/
  drawn : Nat
  deriving DecidableEq, Repr

/-- Why the machine stops. The three fatal errors of rule R300 are NOT here: a fatal error is a next state, halted, whose
`status` holds its record (rules R302, R138). -/
inductive Fault where
  /-- Raised by `step` when the run is over: the engine has left its loop and set `src_stop`, and the Interrupt Source has
  ended (rules R19, R140, R327). It carries the run's result (rule R18). Safe: no agent has a step, so nothing is claimed
  of a later state (DESIGN CHOICE, log entry 6). -/
  | runOver (result : RunStatus)
  deriving DecidableEq, Repr

/-- Why the machine has no meaning for what it was given. -/
inductive Refusal where
  /-- Raised by `exec` for an instruction without a meaning; no arm raises it. Safe. -/
  | notModelled (mnemonic : String)
  /-- Raised by `load` for an image longer than 256 bytes (rule R15); no step raises it. Safe: the spec refuses it too. -/
  | imageTooLong (length : Nat)
  deriving DecidableEq, Repr

/-- Machine construction, before `run()`: every piece of engine state at its reset value, every memory byte at `MEM_FILL`,
the Interrupt Source not yet started (rules R350, R45, R48; values: log entries 2, 12 and 13). -/
def State.constructed : State :=
  { regs := { r0 := 0x00, r1 := 0x00, r2 := 0x00, r3 := 0x00, r4 := 0x00, r5 := 0x00, r6 := 0x00, r7 := Config.spReset }
    pc := 0x00
    ir := 0x00
    fl := 0b000
    ie := true
    halted := false
    lastKey := 0x00
    termReq := false
    tick := 0
    srcStop := false
    srcLive := false
    status := .running
    mem := []
    out := []
    phase := .ea
    params := Config.defaultParams
    schedule := []
    drawn := 0 }

/-- The machine right after reset: constructed, no image loaded, `run()` begun, so that the Interrupt Source is live and
the engine stands before its first EA (rules R350, R351, R45; DESIGN CHOICE, log entry 10). -/
def State.reset : State := { State.constructed with srcLive := true }

end Sys2Proof.Machine
end

