-- ==== Sys2Proof/Machine/Flags.lean ====
section
/-! DEFINITION. The flags register: its three fields (rule R38), the compare that sets it (rule R170), and the conditions of
the conditional jumps (rules R212-R217). -/

namespace Sys2Proof.Machine

/-- `fl.L`, bit 2 (rule R38). -/
def flL (fl : BitVec 3) : Bool := fl.getLsbD 2

/-- `fl.G`, bit 1 (rule R38). -/
def flG (fl : BitVec 3) : Bool := fl.getLsbD 1

/-- `fl.E`, bit 0 (rule R38). -/
def flE (fl : BitVec 3) : Bool := fl.getLsbD 0

/-- The whole of FL after a compare of `p` with `q`, unsigned (rule R170). -/
def compareFlags (p q : Byte) : BitVec 3 :=
  if p = q then 0b001 else if p.toNat < q.toNat then 0b100 else 0b010

/-- JEQ's condition (rule R212). -/
def condEq (fl : BitVec 3) : Bool := flE fl

/-- JNE's condition (rule R213). -/
def condNe (fl : BitVec 3) : Bool := !flE fl

/-- JLT's condition (rule R214). -/
def condLt (fl : BitVec 3) : Bool := flL fl

/-- JGT's condition (rule R215). -/
def condGt (fl : BitVec 3) : Bool := flG fl

/-- JLE's condition (rule R216). -/
def condLe (fl : BitVec 3) : Bool := flL fl || flE fl

/-- JGE's condition (rule R217). -/
def condGe (fl : BitVec 3) : Bool := flG fl || flE fl

end Sys2Proof.Machine
end

