-- ==== Sys2Proof/Machine/Ops.lean ====
section
/-! DEFINITION. The named operations over registers, memory, stack and output that the meanings share; raising a fatal error
(rule R302); interrupt service, the machine's one exception entry (rule R311), and the return from it (rule R196). -/

namespace Sys2Proof.Machine

/-! ### Registers -/

/-- A register's value. -/
def Regs.get (g : Regs) : Reg → Byte
  | .r0 => g.r0
  | .r1 => g.r1
  | .r2 => g.r2
  | .r3 => g.r3
  | .r4 => g.r4
  | .r5 => g.r5
  | .r6 => g.r6
  | .r7 => g.r7

/-- The register file with one register replaced. -/
def Regs.set (g : Regs) (r : Reg) (v : Byte) : Regs :=
  match r with
  | .r0 => { g with r0 := v }
  | .r1 => { g with r1 := v }
  | .r2 => { g with r2 := v }
  | .r3 => { g with r3 := v }
  | .r4 => { g with r4 := v }
  | .r5 => { g with r5 := v }
  | .r6 => { g with r6 := v }
  | .r7 => { g with r7 := v }

/-- `x[i]`, a read of a register (rules R12, R30). -/
def State.reg (s : State) (r : Reg) : Byte := s.regs.get r

/-- `x[i] <- v`, a write of a register (rules R12, R30). No register is hardwired. -/
def State.setReg (s : State) (r : Reg) (v : Byte) : State := { s with regs := s.regs.set r v }

/-- `pc <- target` (rule R12). -/
def State.setPc (s : State) (target : Byte) : State := { s with pc := target }

/-- Write the whole of FL (rule R39). -/
def State.setFl (s : State) (fl : BitVec 3) : State := { s with fl := fl }

/-- The PC advance past an opcode and its `n` operand bytes (rule R135). -/
def State.advance (s : State) (n : Nat) : State := { s with pc := s.pc + wrap8 (n + 1) }

/-! ### Memory -/

/-- `MemRead(addr, 1)` (rule R13). -/
def State.readMem (s : State) (a : Byte) : Byte := s.mem.read a.toNat

/-- `MemWrite(addr, 1, v)` (rule R13). Every address may be written (rule R72). -/
def State.writeMem (s : State) (a v : Byte) : State := { s with mem := s.mem.write a.toNat v }

/-- The key mirror's address (rules R71, R132). -/
def keyMirror : Byte := 0xF4

/-- The address of the vector slot of interrupt `i` (rules R71, R313). -/
def vectorSlot (i : Fin 8) : Byte := 0xF8 + wrap8 i.val

/-! ### The stack and the output stream -/

/-- `Push(v)` (rule R190): decrement SP, then write at the new SP. -/
def State.push (s : State) (v : Byte) : State :=
  let s' := s.setReg .r7 (s.reg .r7 - 1)
  s'.writeMem (s'.reg .r7) v

/-- `Pop()` (rule R191): the byte at SP, and the state with SP incremented. -/
def State.pop (s : State) : Byte × State :=
  (s.readMem (s.reg .r7), s.setReg .r7 (s.reg .r7 + 1))

/-- Push a register's value, read before SP changes (rule R311; PUSH, rule R192). -/
def State.pushReg (s : State) (r : Reg) : State := s.push (s.reg r)

/-- Pop into a register, written after SP has changed (rule R196; POP, rule R193). -/
def State.popReg (s : State) (r : Reg) : State := s.pop.2.setReg r s.pop.1

/-- `emit Out(kind, v)`: append an event to the output stream (rules R14, R16). -/
def State.emit (s : State) (e : OutEvent) : State := { s with out := s.out ++ [e] }

/-! ### Fatal errors -/

/-- The first terminal status written in a run stands (rules R46, R137). -/
def RunStatus.settle (old new : RunStatus) : RunStatus := if old = .running then new else old

/-- `raise Fault(kind, info)` (rules R302, R138): halt and record. Nothing else of the machine changes, the PC among it.
EF does not run: the engine stands at the loop's head, where it leaves the loop (DESIGN CHOICE, log entry 5). -/
def State.raiseFault (s : State) (k : FaultInfo) : State :=
  { s with halted := true, status := s.status.settle (.fault k), phase := .ea }

/-! ### Interrupt entry and return -/

/-- Number of the timer interrupt, `TIMER_IRQ` (rules R9, R306). -/
def timerIrq : Fin 8 := 0

/-- Number of the keyboard interrupt, `KBD_IRQ` (rules R9, R306). -/
def keyboardIrq : Fin 8 := 1

/-- The byte with bit `i` alone set. -/
def irqBit (i : Fin 8) : Byte := (1 : Byte) <<< i.val

/-- The lowest set bit of a byte, the interrupt that is serviced (rules R133, R310). -/
def lowestSet (pend : Byte) : Option (Fin 8) :=
  [0, 1, 2, 3, 4, 5, 6, 7].find? (fun j : Fin 8 => pend.getLsbD j.val)

/-- `zext_8(fl)`: FL as it is pushed (rules R38, R311). -/
def flByte (fl : BitVec 3) : Byte := fl.setWidth 8

/-- What IRET keeps of a popped FL byte: its low three bits (rule R196). -/
def flOfByte (b : Byte) : BitVec 3 := b.setWidth 3

/-- `Service(i)` (rule R311): clear `ie`, clear bit `i` of IS, push PC, FL and R0-R6 in that order, and go to the address
in the vector slot, read after the pushes (rule R313). -/
def State.service (s : State) (i : Fin 8) : State :=
  let s1 := { s with ie := false }
  let s2 := s1.setReg .r6 (s1.reg .r6 &&& ~~~ irqBit i)
  let s3 := (s2.push s2.pc).push (flByte s2.fl)
  let s4 := (((s3.pushReg .r0).pushReg .r1).pushReg .r2).pushReg .r3
  let s5 := ((s4.pushReg .r4).pushReg .r5).pushReg .r6
  s5.setPc (s5.readMem (vectorSlot i))

/-- The return from an interrupt (rule R196): pop R6 down to R0, then FL, then PC, and set `ie`. SP is where the nine pops
leave it. -/
def State.returnFromInterrupt (s : State) : State :=
  let s1 := (((s.popReg .r6).popReg .r5).popReg .r4).popReg .r3
  let s2 := ((s1.popReg .r2).popReg .r1).popReg .r0
  let s3 := s2.pop.2.setFl (flOfByte s2.pop.1)
  let s4 := s3.pop.2.setPc s3.pop.1
  { s4 with ie := true }

end Sys2Proof.Machine
end

