-- ==== Sys2Proof/Machine/Operands.lean ====
section
/-! DEFINITION. The operand forms: `regidx` (rule R108), and the checked register operands of the formats F1R, F2RR and F2RI
(rule R103). Every register operand is checked, first operand first, before anything is written (rules R134, R305). -/

namespace Sys2Proof.Machine

/-- `regidx(b)` (rule R108): bytes 0 to 7 name R0 to R7; a byte above 7 names no register. -/
def regIdx (b : Byte) : Option Reg :=
  match b.toNat with
  | 0 => some .r0
  | 1 => some .r1
  | 2 => some .r2
  | 3 => some .r3
  | 4 => some .r4
  | 5 => some .r5
  | 6 => some .r6
  | 7 => some .r7
  | _ => none

/-- `raise Fault(InvalidRegister, ...)` with the opcode in IR and the PC of the opcode (rule R108). -/
def invalidRegister (s : State) (b : Byte) : State := s.raiseFault (.invalidRegister s.ir s.pc b)

/-- The operand of F1R and the register operand of F2RI (rules R103, R108): go on with the register, or fault. -/
def withReg (s : State) (ra : Byte) (k : Reg → State) : State :=
  match regIdx ra with
  | none => invalidRegister s ra
  | some a => k a

/-- The two register operands of F2RR (rules R103, R108, R305). -/
def withRegs (s : State) (ra rb : Byte) (k : Reg → Reg → State) : State :=
  withReg s ra (fun a => withReg s rb (fun b => k a b))

end Sys2Proof.Machine
end

