-- ==== Sys2Proof/Machine/Alu.lean ====
section
/-! DEFINITION. The ALU instructions (spec/41_alu.md) and INC and DEC (spec/44_incdec.md). Every result is the mathematical
result on naturals reduced modulo 256 (rule R151), and only CMP touches FL (rule R152). -/

namespace Sys2Proof.Machine

/-- The common form of a binary ALU instruction (rule R150): `x[a] <- f(x[a], x[b])`, then the advance past two operands. -/
def aluBinary (f : Byte → Byte → Byte) (ra rb : Byte) (s : State) : State :=
  withRegs s ra rb fun a b => (s.setReg a (f (s.reg a) (s.reg b))).advance 2

/-- The common form of a unary register instruction (rules R166, R230, R231): `x[a] <- f(x[a])`, then the advance past one
operand. -/
def aluUnary (f : Byte → Byte) (ra : Byte) (s : State) : State :=
  withReg s ra fun a => (s.setReg a (f (s.reg a))).advance 1

/-- The common form of DIV and MOD (rules R158, R159): the registers are checked first, then the divisor (rule R305). -/
def aluDivision (op : DivisionOp) (f : Byte → Byte → Byte) (ra rb : Byte) (s : State) : State :=
  withRegs s ra rb fun a b =>
    if s.reg b = 0 then s.raiseFault (.divisionByZero op s.pc)
    else (s.setReg a (f (s.reg a) (s.reg b))).advance 2

/-- The value SHL computes (rules R167, R169). The count is the whole byte: 8 or more gives 0. -/
def shlValue (m : Config.ShiftSemantics) (p q : Byte) : Byte :=
  match m with
  | .intended => p <<< q.toNat
  | .sourceAnd => p &&& q

/-- The value SHR computes (rules R168, R169): logical, zero fill. -/
def shrValue (m : Config.ShiftSemantics) (p q : Byte) : Byte :=
  match m with
  | .intended => p >>> q.toNat
  | .sourceAnd => p &&& q

/-- ADD (rule R155). -/
def execAdd (ra rb : Byte) (s : State) : Host.Outcome State Fault Refusal :=
  .next (aluBinary (fun p q => p + q) ra rb s)

/-- SUB (rule R156). -/
def execSub (ra rb : Byte) (s : State) : Host.Outcome State Fault Refusal :=
  .next (aluBinary (fun p q => p - q) ra rb s)

/-- MUL (rule R157): the low byte of the product. -/
def execMul (ra rb : Byte) (s : State) : Host.Outcome State Fault Refusal :=
  .next (aluBinary (fun p q => p * q) ra rb s)

/-- DIV (rule R158): the unsigned quotient. -/
def execDiv (ra rb : Byte) (s : State) : Host.Outcome State Fault Refusal :=
  .next (aluDivision .div (fun p q => p / q) ra rb s)

/-- MOD (rule R159): the unsigned remainder. -/
def execMod (ra rb : Byte) (s : State) : Host.Outcome State Fault Refusal :=
  .next (aluDivision .mod (fun p q => p % q) ra rb s)

/-- AND (rule R162). -/
def execAnd (ra rb : Byte) (s : State) : Host.Outcome State Fault Refusal :=
  .next (aluBinary (fun p q => p &&& q) ra rb s)

/-- OR (rule R163). -/
def execOr (ra rb : Byte) (s : State) : Host.Outcome State Fault Refusal :=
  .next (aluBinary (fun p q => p ||| q) ra rb s)

/-- XOR (rule R164). -/
def execXor (ra rb : Byte) (s : State) : Host.Outcome State Fault Refusal :=
  .next (aluBinary (fun p q => p ^^^ q) ra rb s)

/-- NOT (rule R166), the unary one. -/
def execNot (ra : Byte) (s : State) : Host.Outcome State Fault Refusal :=
  .next (aluUnary (fun p => ~~~ p) ra s)

/-- SHL (rules R167, R169). -/
def execShl (ra rb : Byte) (s : State) : Host.Outcome State Fault Refusal :=
  .next (aluBinary (shlValue s.params.shiftSemantics) ra rb s)

/-- SHR (rules R168, R169). -/
def execShr (ra rb : Byte) (s : State) : Host.Outcome State Fault Refusal :=
  .next (aluBinary (shrValue s.params.shiftSemantics) ra rb s)

/-- CMP (rule R170): FL is replaced, neither register is written. -/
def execCmp (ra rb : Byte) (s : State) : Host.Outcome State Fault Refusal :=
  .next (withRegs s ra rb fun a b => (s.setFl (compareFlags (s.reg a) (s.reg b))).advance 2)

/-- INC (rule R230). -/
def execInc (ra : Byte) (s : State) : Host.Outcome State Fault Refusal :=
  .next (aluUnary (fun p => p + 1) ra s)

/-- DEC (rule R231). -/
def execDec (ra : Byte) (s : State) : Host.Outcome State Fault Refusal :=
  .next (aluUnary (fun p => p - 1) ra s)

end Sys2Proof.Machine
end

