-- ==== Sys2Proof/Machine/Control.lean ====
section
/-! DEFINITION. Control transfer (spec/43_control.md): JMP and the six conditional jumps. -/

namespace Sys2Proof.Machine

/-- The common form of a jump (rule R210): the register operand is checked on both paths; a jump that is not taken goes on
after its operand byte. -/
def jumpIf (taken : Bool) (ra : Byte) (s : State) : State :=
  withReg s ra fun a => s.setPc (if taken then s.reg a else s.pc + 2)

/-- JMP (rule R211). -/
def execJmp (ra : Byte) (s : State) : Host.Outcome State Fault Refusal :=
  .next (jumpIf true ra s)

/-- JEQ (rule R212). -/
def execJeq (ra : Byte) (s : State) : Host.Outcome State Fault Refusal :=
  .next (jumpIf (condEq s.fl) ra s)

/-- JNE (rule R213). -/
def execJne (ra : Byte) (s : State) : Host.Outcome State Fault Refusal :=
  .next (jumpIf (condNe s.fl) ra s)

/-- JLT (rule R214). -/
def execJlt (ra : Byte) (s : State) : Host.Outcome State Fault Refusal :=
  .next (jumpIf (condLt s.fl) ra s)

/-- JGT (rule R215). -/
def execJgt (ra : Byte) (s : State) : Host.Outcome State Fault Refusal :=
  .next (jumpIf (condGt s.fl) ra s)

/-- JLE (rule R216). -/
def execJle (ra : Byte) (s : State) : Host.Outcome State Fault Refusal :=
  .next (jumpIf (condLe s.fl) ra s)

/-- JGE (rule R217). -/
def execJge (ra : Byte) (s : State) : Host.Outcome State Fault Refusal :=
  .next (jumpIf (condGe s.fl) ra s)

end Sys2Proof.Machine
end

