-- ==== Sys2Proof/Machine/Data.lean ====
section
/-! DEFINITION. Data movement (spec/45_data.md): LDI, LD, ST. The one addressing mode is register-indirect. -/

namespace Sys2Proof.Machine

/-- LDI (rule R240): the immediate is the operand byte unchanged. -/
def execLdi (ra imm : Byte) (s : State) : Host.Outcome State Fault Refusal :=
  .next (withReg s ra fun a => (s.setReg a imm).advance 2)

/-- LD (rule R241): destination first, address register second. -/
def execLd (ra rb : Byte) (s : State) : Host.Outcome State Fault Refusal :=
  .next (withRegs s ra rb fun a b => (s.setReg a (s.readMem (s.reg b))).advance 2)

/-- ST (rule R242): address register first, value register second. -/
def execSt (ra rb : Byte) (s : State) : Host.Outcome State Fault Refusal :=
  .next (withRegs s ra rb fun a b => (s.writeMem (s.reg a) (s.reg b)).advance 2)

end Sys2Proof.Machine
end

