-- ==== Sys2Proof/Machine/IoHalt.lean ====
section
/-! DEFINITION. The output pseudo-instructions and halt (spec/46_io_halt.md): PRN, PRA, HLT. -/

namespace Sys2Proof.Machine

/-- PRN (rule R250). -/
def execPrn (ra : Byte) (s : State) : Host.Outcome State Fault Refusal :=
  .next (withReg s ra fun a => (s.emit (.num (s.reg a))).advance 1)

/-- PRA (rule R251). -/
def execPra (ra : Byte) (s : State) : Host.Outcome State Fault Refusal :=
  .next (withReg s ra fun a => (s.emit (.char (s.reg a))).advance 1)

/-- HLT (rule R252): the PC still advances, and EF still runs (rules R135, R137). -/
def execHlt (s : State) : Host.Outcome State Fault Refusal :=
  .next (State.advance { s with halted := true, status := s.status.settle .halt } 0)

end Sys2Proof.Machine
end

