-- ==== Sys2Proof/Machine/Stack.lean ====
section
/-! DEFINITION. The stack instructions (spec/42_stack.md): PUSH, POP, CALL, RET, IRET. -/

namespace Sys2Proof.Machine

/-- PUSH (rule R192): the register is read before SP changes. -/
def execPush (ra : Byte) (s : State) : Host.Outcome State Fault Refusal :=
  .next (withReg s ra fun a => (s.pushReg a).advance 1)

/-- POP (rule R193): the destination is written last. -/
def execPop (ra : Byte) (s : State) : Host.Outcome State Fault Refusal :=
  .next (withReg s ra fun a => (s.popReg a).advance 1)

/-- CALL (rule R194): the target is read before the push of the return address. -/
def execCall (ra : Byte) (s : State) : Host.Outcome State Fault Refusal :=
  .next (withReg s ra fun a => (s.push (s.pc + 2)).setPc (s.reg a))

/-- RET (rule R195). -/
def execRet (s : State) : Host.Outcome State Fault Refusal :=
  .next (s.pop.2.setPc s.pop.1)

/-- IRET (rule R196). -/
def execIret (s : State) : Host.Outcome State Fault Refusal :=
  .next s.returnFromInterrupt

end Sys2Proof.Machine
end

