-- ==== Sys2Proof/Machine/Source.lean ====
section
/-! DEFINITION. The Interrupt Source's one atomic action, SC (rules R320-R328). -/

namespace Sys2Proof.Machine

/-- Interrupt `i` may be raised at this moment: globally permitted, and enabled in IM (rules R321, R322, R307). -/
def State.permits (s : State) (i : Fin 8) : Bool := s.ie && (s.reg .r5).getLsbD i.val

/-- Set bit `i` of IS if interrupt `i` is permitted: one test-and-set, a single-bit OR (rule R326). -/
def State.raiseIrq (s : State) (i : Fin 8) : State :=
  if s.permits i then s.setReg .r6 (s.reg .r6 ||| irqBit i) else s

/-- Part (1), the keyboard (rule R321): the key is recorded whether or not the interrupt is raised. A poll that fails counts
as no key (rule R328). -/
def keyboardPart (p : Poll) (s : State) : State :=
  match p with
  | .key k => State.raiseIrq { s with lastKey := k } keyboardIrq
  | .noKey => s
  | .quit => s
  | .failed => s

/-- The tick counter counts one cycle, modulo the poll rate (rule R322). -/
def State.countTick (s : State) : State := { s with tick := (s.tick + 1) % s.params.pollRate }

/-- Part (2), the timer (rule R322): count, then test for the wrap. -/
def timerPart (s : State) : State :=
  if s.countTick.tick = 0 then s.countTick.raiseIrq timerIrq else s.countTick

/-- Part (3), the quit key (rule R323). -/
def quitPart (p : Poll) (s : State) : State :=
  match p with
  | .quit => { s with termReq := true, srcLive := false }
  | .noKey => s
  | .key _ => s
  | .failed => s

/-- SC (rule R320): end the task if the engine asked for it, and poll nothing; else the three parts in order. -/
def sourceCycle (p : Poll) (s : State) : State :=
  if s.srcStop then { s with srcLive := false }
  else quitPart p (timerPart (keyboardPart p s))

end Sys2Proof.Machine
end

