-- ==== Sys2Proof/Machine/Engine.lean ====
section
/-! DEFINITION. The Execution Engine's atomic actions EA, EB, EX, EF and its step (rules R130-R140). -/

namespace Sys2Proof.Machine

/-- EA (rule R132): mirror the last key into memory. -/
def actionEA (s : State) : State :=
  { s.writeMem keyMirror s.lastKey with phase := .eb }

/-- The interrupts pending and enabled, `IS & IM` (rule R133). -/
def State.pending (s : State) : Byte := s.reg .r6 &&& s.reg .r5

/-- The interrupt EB services, if any: the lowest pending and enabled one, while `ie` is true (rules R133, R310). -/
def State.serviced (s : State) : Option (Fin 8) := if s.ie then lowestSet s.pending else none

/-- EB (rule R133): service at most one interrupt. -/
def actionEB (s : State) : State :=
  match s.serviced with
  | some i => { s.service i with phase := .ex }
  | none => { s with phase := .ex }

/-- The instruction whose bytes stand at the PC, if its opcode is implemented (rules R86, R107). Two bytes
after the opcode are read for every opcode, which nothing can tell (rule R77; DEDUCED, log entry 16). -/
def State.fetched (s : State) : Option Instr :=
  decodeOp (s.readMem s.pc) (s.readMem (s.pc + 1)) (s.readMem (s.pc + 2))

/-- The state in which a fetched instruction executes: its opcode in IR (rule R37), EF to come next (rule R140). -/
def State.fetchOpcode (s : State) : State := { s with ir := s.readMem s.pc, phase := .ef }

/-- EX (rule R134): fetch, then execute, or fault on an unimplemented opcode (rule R105). -/
def actionEX (s : State) : Host.Outcome State Fault Refusal :=
  match s.fetched with
  | some i => exec i s.fetchOpcode
  | none => .next (s.fetchOpcode.raiseFault (.unimplementedInstruction (s.readMem s.pc) s.pc))

/-- EF (rule R136): halt on a termination request; the first terminal status stands (rule R137). -/
def actionEF (s : State) : State :=
  if s.termReq then { s with halted := true, status := s.status.settle .quit, phase := .ea }
  else { s with phase := .ea }

/-- The engine has left its loop: it is halted and no EF is to come (rules R130, R137, R138; DEDUCED, log entry
18). -/
def State.leftLoop (s : State) : Bool := s.halted && s.phase != .ef

/-- The engine has no move left: it has left its loop and set `src_stop` (rules R130, R140). -/
def State.engineDone (s : State) : Bool := s.leftLoop && s.srcStop

/-- One move of the engine (rule R140). After the loop it sets `src_stop` (rule R130). -/
def engineStep (s : State) : Host.Outcome State Fault Refusal :=
  if s.leftLoop then .next { s with srcStop := true }
  else
    match s.phase with
    | .ea => .next (actionEA s)
    | .eb => .next (actionEB s)
    | .ex => actionEX s
    | .ef => .next (actionEF s)

/-- The agent that moves next, and the poll it makes. -/
inductive Mover where
  | engine
  | source (p : Poll)
  deriving DecidableEq, Repr

/-- The `n`-th free block of turns: any turns, then one of each agent. Both agents are weakly fair (rule R371), so every
endless sequence of turns, and no other, is a sequence of such blocks (DESIGN CHOICE, log entry 1). -/
def freeBlock (n : Nat) : List Turn := Config.freeTurns n ++ [.source (Config.freePoll n), .engine]

/-- The turns to come: those listed, or, with none listed, the free block that is drawn next. -/
def State.turns (s : State) : List Turn := if s.schedule = [] then freeBlock s.drawn else s.schedule

/-- Which agent moves next (rules R8, R83): the one whose turn it is, if it has a move; else the other, if that one has
(DESIGN CHOICE, log entries 1 and 4). -/
def State.mover (s : State) : Option Mover :=
  match s.turns.head? with
  | some (.source p) =>
    if s.srcLive then some (.source p) else if s.engineDone then none else some .engine
  | _ =>
    if s.engineDone then (if s.srcLive then some (.source .noKey) else none) else some .engine

/-- The state with the next turn taken, a free block drawn for it if none was listed. -/
def State.takeTurn (s : State) : State :=
  { s with schedule := s.turns.tail, drawn := if s.schedule = [] then s.drawn + 1 else s.drawn }

/-- One atomic action of the agent that moves next; a run that is over stops (rules R19, R327). -/
def nextAction (s : State) : Host.Outcome State Fault Refusal :=
  match s.mover with
  | some .engine => engineStep s.takeTurn
  | some (.source p) => .next (sourceCycle p s.takeTurn)
  | none => .fault (.runOver s.status)

end Sys2Proof.Machine
end

