-- ==== Sys2Proof/Machine/Boot.lean ====
section
/-! DEFINITION. The host's side of a run (rules R15, R18, R350, R353): `load`, the start of `run()`, and the run's result. -/

namespace Sys2Proof.Machine

/-- `load(bytes)` (rule R15): copy the image to memory from address 0; an image longer than the memory is refused.
DEDUCED (log entry 17): it is a function on any state. -/
def load (image : List Byte) (s : State) : Host.Outcome State Fault Refusal :=
  if image.length ≤ 256 then .next { s with mem := s.mem.writeAll 0 image }
  else .refused (.imageTooLong image.length)

/-- The start of `run()` (rules R18, R130, R327): the Interrupt Source is created with fresh per-run state and the loop
stands before its first EA. On a machine that has halted, `run()` changes nothing (rule R353). -/
def startRun (s : State) : State :=
  if s.halted then s
  else { s with tick := 0, termReq := false, srcStop := false, srcLive := true, phase := .ea }

/-- Construction, `load` and the start of `run()` (rule R350). -/
def boot (image : List Byte) : Host.Outcome State Fault Refusal :=
  match load image State.constructed with
  | .next s => .next (startRun s)
  | .fault r => .fault r
  | .refused r => .refused r

/-- The run's result, once the run is over (rules R18, R327). -/
def runResult (s : State) : Option RunStatus :=
  if s.engineDone && !s.srcLive then some s.status else none

/-- Place the bytes of one instruction at the PC, wrapping past 0xFF (rule R75). -/
def State.placeAtPc (s : State) (b0 b1 b2 : Byte) : State :=
  ((s.writeMem s.pc b0).writeMem (s.pc + 1) b1).writeMem (s.pc + 2) b2

/-- The state in which the very next step is EX of the engine (DESIGN CHOICE, log entry 7): the engine's turn, in a running machine. -/
def State.beforeEX (s : State) : State :=
  { s with phase := .ex, halted := false, status := .running, schedule := .engine :: s.schedule }

end Sys2Proof.Machine
end

