-- ==== Sys2Proof/Machine/Step.lean ====
section
/-! DEFINITION. The machine's step: one atomic action of one agent (rules R8, R83); and the placing of one instruction where
the next step fetches it. -/

namespace Sys2Proof.Machine

/-- One atomic action: EA, EB, EX, EF or SC (rule R8), or the engine's last move (rule R130). -/
def step (s : State) : Host.Outcome State Fault Refusal := nextAction s

/-- `s` with the instruction of bits `w` at its PC and EX of the engine next (log entry 7). -/
def State.withFetchWord (s : State) (nbits w : Nat) : State :=
  let b := tableBytes nbits w
  (s.placeAtPc (b.getD 0 0) (b.getD 1 0) (b.getD 2 0)).beforeEX

end Sys2Proof.Machine
end

