-- ==== Sys2Proof/Safety.lean ====
section
/-! DEFINITION. The terms in which the statements speak: what two states share (frames), what a fatal error leaves, which
instructions divide by zero or transfer control, and the invariant of the machine. -/

namespace Sys2Proof

open Machine

/-! ### Kinds of instruction -/

/-- DIV or MOD with a divisor register that holds zero (rules R158-R160). -/
def Instr.dividesByZero (i : Instr) (s : State) : Bool :=
  match i with
  | .div _ rb => (regIdx rb).any (fun b => s.reg b == 0)
  | .mod _ rb => (regIdx rb).any (fun b => s.reg b == 0)
  | _ => false

/-- The ten control transfers of rule R111. -/
def Instr.transfersControl : Instr → Bool
  | .call _ | .ret | .iret | .jmp _ | .jeq _ | .jne _ | .jgt _ | .jlt _ | .jle _ | .jge _ => true
  | _ => false

/-- The fourteen ALU operations of rule R110. -/
def Instr.isAlu : Instr → Bool
  | .add _ _ | .sub _ _ | .mul _ _ | .div _ _ | .mod _ _ | .cmp _ _ | .and _ _ | .or _ _ | .xor _ _ | .shl _ _ => true
  | .shr _ _ | .inc _ | .dec _ | .not _ => true
  | _ => false

/-- The addresses EX of an instruction may write, computed as the rules give them: ST at register A (rule R242), PUSH and
CALL below SP (rules R192, R194). -/
def Instr.stores (i : Instr) (s : State) : List Byte :=
  match i with
  | .st ra _ => (regIdx ra).toList.map s.reg
  | .push _ => [s.reg .r7 - 1]
  | .call _ => [s.reg .r7 - 1]
  | _ => []

end Sys2Proof

namespace Sys2Proof.Machine

/-- The state a step or an instruction goes on in, if it goes on. -/
def nextState : Host.Outcome State Fault Refusal → Option State
  | .next t => some t
  | .fault _ => none
  | .refused _ => none

/-- The next state changed by `f`; a stop stays as it is. -/
def mapNext (f : State → State) : Host.Outcome State Fault Refusal → Host.Outcome State Fault Refusal
  | .next t => .next (f t)
  | .fault r => .fault r
  | .refused r => .refused r

/-- The operand byte that names a register (rule R108): 0x00 to 0x07. -/
def Reg.operand : Reg → Byte
  | .r0 => 0x00
  | .r1 => 0x01
  | .r2 => 0x02
  | .r3 => 0x03
  | .r4 => 0x04
  | .r5 => 0x05
  | .r6 => 0x06
  | .r7 => 0x07

/-! ### Frames -/

/-- Every register but the listed ones is as it was. -/
def SameRegsBut (rs : List Reg) (s t : State) : Prop := ∀ r, r ∉ rs → t.reg r = s.reg r

/-- Every byte of memory but the listed addresses reads as it did. -/
def SameMemBut (as : List Byte) (s t : State) : Prop := ∀ a, a ∉ as → t.readMem a = s.readMem a

/-- Every byte of memory reads as it did. -/
def SameMem (s t : State) : Prop := ∀ a, t.readMem a = s.readMem a

/-- The state the Interrupt Source owns or shares, IS apart, the parameters and the turns to come are as they were. -/
structure SameSource (s t : State) : Prop where
  lastKey : t.lastKey = s.lastKey
  termReq : t.termReq = s.termReq
  tick : t.tick = s.tick
  srcStop : t.srcStop = s.srcStop
  srcLive : t.srcLive = s.srcLive
  params : t.params = s.params
  schedule : t.schedule = s.schedule
  drawn : t.drawn = s.drawn

/-- The hidden control state is as it was: IR, `ie`, `halted`, `status`, the engine's phase, and the source's state. -/
structure SameControl (s t : State) : Prop where
  ir : t.ir = s.ir
  ie : t.ie = s.ie
  halted : t.halted = s.halted
  status : t.status = s.status
  phase : t.phase = s.phase
  source : SameSource s t

/-- What a fatal error leaves (rules R302, R138): halted, the record kept unless a terminal status stood already, EF not to
come, and everything else as it was, the PC among it. -/
structure FaultStop (k : FaultInfo) (s t : State) : Prop where
  halted : t.halted = true
  recorded : s.status = .running → t.status = .fault k
  keptStatus : s.status ≠ .running → t.status = s.status
  noEF : t.phase ≠ .ef
  regs : SameRegsBut [] s t
  mem : SameMem s t
  pc : t.pc = s.pc
  ir : t.ir = s.ir
  fl : t.fl = s.fl
  ie : t.ie = s.ie
  out : t.out = s.out
  source : SameSource s t

/-- An instruction's effect on one register and the PC, and its frame: register `a` holds `v`, the PC has moved by `n`, all
else is as it was. -/
structure WritesOnly (a : Reg) (v : Byte) (n : Byte) (s t : State) : Prop where
  value : t.reg a = v
  pc : t.pc = s.pc + n
  regs : SameRegsBut [a] s t
  mem : SameMem s t
  fl : t.fl = s.fl
  out : t.out = s.out
  control : SameControl s t

/-- A jump's effect and its frame: the PC is at the target, all else is as it was. -/
structure JumpsOnly (target : Byte) (s t : State) : Prop where
  pc : t.pc = target
  regs : SameRegsBut [] s t
  mem : SameMem s t
  fl : t.fl = s.fl
  out : t.out = s.out
  control : SameControl s t

/-- The instruction faults with `InvalidRegister` on its first operand byte above 7, whatever the state (rule R108). -/
def RejectsBadOperand (i : Instr) : Prop :=
  ∀ s b, i.badOperand = some b → ∃ t, exec i s = .next t ∧ FaultStop (.invalidRegister s.ir s.pc b) s t

/-- The whole rule of a one-register instruction that replaces its register (rules R166, R230, R231): encoding, result and
frame, faults. -/
def UnaryRule (op : Byte) (mk : Byte → Instr) (result : Byte → Byte → Prop) : Prop :=
  (∀ ra, decode [op, ra] = .ok (mk ra) []) ∧
  (∀ s a, ∃ t v, exec (mk a.operand) s = .next t ∧ result (s.reg a) v ∧ WritesOnly a v 2 s t) ∧
  (∀ ra, RejectsBadOperand (mk ra))

/-- The whole rule of a two-register instruction that replaces register A by a function of registers A and B (rule R150):
encoding, result and frame, faults. -/
def BinaryRule (op : Byte) (mk : Byte → Byte → Instr) (result : State → Byte → Byte → Byte → Prop) : Prop :=
  (∀ ra rb, decode [op, ra, rb] = .ok (mk ra rb) []) ∧
  (∀ s a b, ∃ t v, exec (mk a.operand b.operand) s = .next t ∧ result s (s.reg a) (s.reg b) v ∧ WritesOnly a v 3 s t) ∧
  (∀ ra rb, RejectsBadOperand (mk ra rb))

/-- The whole rule of a jump with a condition on FL (rule R210): encoding, both paths and frame, faults. -/
def JumpRule (op : Byte) (mk : Byte → Instr) (cond : BitVec 3 → Bool) : Prop :=
  (∀ ra, decode [op, ra] = .ok (mk ra) []) ∧
  (∀ s a, ∃ t, exec (mk a.operand) s = .next t ∧ JumpsOnly (if cond s.fl then s.reg a else s.pc + 2) s t) ∧
  (∀ ra, RejectsBadOperand (mk ra))

/-! ### The stack and the source over many moves -/

/-- The nine addresses of an interrupt frame below a stack pointer, PC's first (rule R312). -/
def frameAddresses (sp : Byte) : List Byte :=
  [sp - 1, sp - 2, sp - 3, sp - 4, sp - 5, sp - 6, sp - 7, sp - 8, sp - 9]

/-- `n` values pushed one after another. -/
def State.pushAll (s : State) : List Byte → State
  | [] => s
  | v :: vs => (s.push v).pushAll vs

/-- `n` bytes popped one after another, first popped first, and the state after them. -/
def State.popMany (s : State) : Nat → List Byte × State
  | 0 => ([], s)
  | n + 1 => (s.pop.1 :: (s.pop.2.popMany n).1, (s.pop.2.popMany n).2)

/-- Source cycles one after another, one for each poll. -/
def sourceCycles : List Poll → State → State
  | [], s => s
  | p :: ps, s => sourceCycles ps (sourceCycle p s)

/-- `k` steps, as far as the machine goes on. -/
def steps : Nat → State → Host.Outcome State Fault Refusal
  | 0, s => .next s
  | k + 1, s =>
    match step s with
    | .next t => steps k t
    | .fault r => .fault r
    | .refused r => .refused r

/-! ### The invariant -/

/-- What holds at reset and after every step. -/
structure Consistent (s : State) : Prop where
  /-- The memory keeps its canonical form: 256 bytes, no entry twice, none equal to `MEM_FILL` (rules R70, R78). -/
  memWf : s.mem.wf
  /-- The poll rate is positive (rule R9), and the tick counter stays below it (rule R44). -/
  tick : s.tick < s.params.pollRate
  /-- `status` is `Running` until `halted` is set (rule R46). -/
  haltedStatus : s.halted = true ↔ s.status ≠ .running
  /-- A halted engine stands at the loop's head, or, after HLT alone, before its last EF (rules R137, R138; after a fatal
  error the phase is the model's choice, log entry 5). -/
  haltedPhase : s.halted = true → s.phase = .ea ∨ (s.phase = .ef ∧ s.status = .halt)
  /-- The engine asks the source to stop only after it has left its loop (rule R130). -/
  stopAfterLoop : s.srcStop = true → s.leftLoop = true
  /-- A run ends with `Quit` only on a termination request (rule R136). -/
  quitRequested : s.status = .quit → s.termReq = true
  /-- The Interrupt Source ends its task on the quit key, or because the engine asked (rule R327). -/
  ended : s.termReq = true → s.srcLive = false
  endedWhy : s.srcLive = false → s.termReq = true ∨ s.srcStop = true

end Sys2Proof.Machine
end

