-- ==== Sys2Proof/Certificates/Slice0/Obligations.lean ====
section
/-! DEFINITION. The statements for the provers: what the rules of spec/ say the instructions, the engine, the Interrupt Source
and the whole machine do. A register is named by its operand byte, `a.operand`; bytes above 0x07 are covered by
`RejectsBadOperand`. A fatal error is a next state that is halted (log entry 5).

The spec marks some of what its rules say as its own decision, not the source's (spec/92_eei_decisions.md). A statement that
gives an opcode value rests on decision D1, one about the operand bytes and `InvalidRegister` on D10, about the roles of two
operands on D15, about the layout of FL on D4, about the PC past 0xFF on D11, about the state after a fatal error on D12, about
the order of reads and writes on D16. -/

open Sys2Proof Sys2Proof.Machine

/-! ### Encoding -/

/-- One word of every family, written from the bits of rule R104 (opcode values: decision D1). -/
def Obligations.DecodesWordsAsWritten : Prop :=
  decode [0b00000001] = .ok .hlt [] ∧
  decode [0b00010011, 0x45] = .ok .iret [0x45] ∧
  decode [0b01000101, 0x07] = .ok (.push 0x07) [] ∧
  decode [0b01010110, 0x02, 0xFF] = .ok (.jne 0x02) [0xFF] ∧
  decode [0b01100101, 0x06] = .ok (.inc 0x06) [] ∧
  decode [0b10000010, 0x03, 0xE0] = .ok (.ldi 0x03 0xE0) [] ∧
  decode [0b10000100, 0x03, 0x00] = .ok (.st 0x03 0x00) [] ∧
  decode [0b10100001, 0x00, 0x01] = .ok (.sub 0x00 0x01) [] ∧
  decode [0b10101101, 0x04, 0x05] = .ok (.shr 0x04 0x05) [] ∧
  decode [0b10100000, 0x04] = .rejected .truncated ∧
  decode [0b11000000, 0x00, 0x00] = .rejected (.unimplementedInstruction 0xC0)

/-- `regidx` (rule R108, decision D10): the bytes 0x00-0x07 name R0-R7, each its own register, and no byte above 7 names
one. -/
def Obligations.RegisterOperandNamesRegister : Prop :=
  (∀ b r, regIdx b = some r ↔ b = r.operand) ∧
  (∀ b, regIdx b = none ↔ 7 < b.toNat) ∧
  (∀ b, isRegister b = true ↔ b.toNat ≤ 7)

/-- Rule R105: exactly 224 byte values are unimplemented, 0x00, 0x52 and every byte with operand count 3 among them; EX on
one sets IR, faults, and changes nothing else, whatever bytes follow. -/
def Obligations.UnimplementedOpcodeFaults : Prop :=
  ((List.range 256).filter (fun n => (opcodeRow (wrap8 n)).isNone)).length = 224 ∧
  opcodeRow 0x00 = none ∧ opcodeRow 0x52 = none ∧
  (∀ op, operandCount op = 3 → opcodeRow op = none) ∧
  (∀ s, opcodeRow (s.readMem s.pc) = none → ∃ t, actionEX s = .next t ∧
    FaultStop (.unimplementedInstruction (s.readMem s.pc) s.pc) { s with ir := s.readMem s.pc } t)

/-- The headline of the encoding: decoding an encoded instruction, with any bytes after it, gives it back with every operand
byte, and those bytes; so no encoding is another's prefix, and one byte sequence is one sequence of instructions. It holds
for every operand byte, so for every well-formed instruction. -/
def Obligations.DecodeInvertsEncode : Prop :=
  (∀ i rest, decode (encode i ++ rest) = .ok i rest) ∧
  (∀ i j rest more, encode i ++ rest = encode j ++ more → i = j ∧ rest = more) ∧
  (∀ is js : List Instr, is.flatMap encode = js.flatMap encode → is = js)

/-- The other direction: what decodes to an instruction is its encoding, and so has one meaning. -/
def Obligations.EncodeInvertsDecode : Prop :=
  ∀ bs i rest, decode bs = .ok i rest → bs = encode i ++ rest

/-- Rules R110, R111, R112 (all derived from R104): bit 4 marks the ten control transfers, bit 5 the fourteen ALU
operations, and bits 7-6 give the length. -/
def Obligations.OpcodeBitsMatchInstruction : Prop :=
  ∀ i : Instr, setsPc i.opcode = i.transfersControl ∧ i.opcode.getLsbD 5 = i.isAlu ∧
    (encode i).length = operandCount i.opcode + 1

/-! ### The engine and fatal errors -/

/-- Rules R134, R135: an instruction whose registers exist and that does not divide by zero completes; the PC advances past
it if its opcode's PC-setting bit is clear; the phase and the source's state stay; and only HLT halts. -/
def Obligations.AdvanceFollowsOpcodeBits : Prop :=
  ∀ (i : Instr) s, i.wellFormed = true → i.dividesByZero s = false →
    ∃ t, exec i s = .next t ∧
      (setsPc i.opcode = false → t.pc = s.pc + wrap8 (operandCount i.opcode + 1)) ∧
      (i ≠ .hlt → t.halted = s.halted ∧ t.status = s.status) ∧
      t.phase = s.phase ∧ t.ir = s.ir ∧ SameSource s t

/-- Rule R303: a step records a fatal error only in EX, and only for an unimplemented opcode, a register operand byte above
7, or a zero divisor. Nothing else faults. -/
def Obligations.NothingElseFaults : Prop :=
  ∀ s t k, step s = .next t → t.status = .fault k → s.status ≠ .fault k →
    s.mover = some .engine ∧ s.phase = .ex ∧
      (opcodeRow (s.readMem s.pc) = none ∨
        ∃ i, s.fetched = some i ∧ (i.wellFormed = false ∨ i.dividesByZero s = true))

/-- Rules R138, R302 (decision D12): whatever the instruction, if it records a fatal error it has written nothing: no
register, memory byte, flag, output event, `ie` or PC; it is halted and EF does not follow. -/
def Obligations.FaultLeavesMachineUnchanged : Prop :=
  ∀ i s t k, s.status = .running → exec i s = .next t → t.status = .fault k → FaultStop k s t

/-- Rule R305 (decision D10), on the two instructions with every kind of fault: the first operand is checked before the
second, and both before the divisor. -/
def Obligations.FaultOrder : Prop :=
  (∀ s ra rb, 7 < ra.toNat →
    (∃ t, exec (.div ra rb) s = .next t ∧ FaultStop (.invalidRegister s.ir s.pc ra) s t) ∧
    (∃ t, exec (.mod ra rb) s = .next t ∧ FaultStop (.invalidRegister s.ir s.pc ra) s t)) ∧
  (∀ s (a : Reg) rb, 7 < rb.toNat →
    (∃ t, exec (.div a.operand rb) s = .next t ∧ FaultStop (.invalidRegister s.ir s.pc rb) s t) ∧
    (∃ t, exec (.mod a.operand rb) s = .next t ∧ FaultStop (.invalidRegister s.ir s.pc rb) s t)) ∧
  (∀ s (a b : Reg), s.reg b = 0 →
    (∃ t, exec (.div a.operand b.operand) s = .next t ∧ FaultStop (.divisionByZero .div s.pc) s t) ∧
    (∃ t, exec (.mod a.operand b.operand) s = .next t ∧ FaultStop (.divisionByZero .mod s.pc) s t))

/-! ### The ALU, increment and decrement -/

/-- Rules R155, R156, R157: ADD, SUB and MUL give the exact sum, difference and product reduced modulo 256, in register A;
no flag, no other register and no memory byte changes. -/
def Obligations.WrappingArithmetic : Prop :=
  BinaryRule 0xA0 .add (fun _ p q v => v = wrap8 (p.toNat + q.toNat)) ∧
  BinaryRule 0xA1 .sub (fun _ p q v => v = BitVec.ofInt 8 ((p.toNat : Int) - (q.toNat : Int))) ∧
  BinaryRule 0xA2 .mul (fun _ p q v => v = wrap8 (p.toNat * q.toNat))

/-- Rule R160: for a divisor of at least 1, DIV and MOD give the quotient and the remainder of the one division
`p = q * (p div q) + (p mod q)`, the remainder below the divisor; for a divisor of 0 both raise `DivisionByZero`. -/
def Obligations.DivisionLaw : Prop :=
  (∀ ra rb, decode [0xA3, ra, rb] = .ok (.div ra rb) [] ∧ decode [0xA4, ra, rb] = .ok (.mod ra rb) []) ∧
  (∀ s (a b : Reg), s.reg b ≠ 0 →
    ∃ t u quotient remainder, exec (.div a.operand b.operand) s = .next t ∧ exec (.mod a.operand b.operand) s = .next u ∧
      WritesOnly a quotient 3 s t ∧ WritesOnly a remainder 3 s u ∧
      (s.reg a).toNat = (s.reg b).toNat * quotient.toNat + remainder.toNat ∧ remainder.toNat < (s.reg b).toNat) ∧
  (∀ s (a b : Reg), s.reg b = 0 →
    ∃ t u, exec (.div a.operand b.operand) s = .next t ∧ exec (.mod a.operand b.operand) s = .next u ∧
      FaultStop (.divisionByZero .div s.pc) s t ∧ FaultStop (.divisionByZero .mod s.pc) s u) ∧
  (∀ ra rb, RejectsBadOperand (.div ra rb) ∧ RejectsBadOperand (.mod ra rb))

/-- Rules R162, R163, R164: AND, OR and XOR, bit by bit. -/
def Obligations.BitwiseLogic : Prop :=
  BinaryRule 0xA8 .and (fun _ p q v => ∀ k, v.getLsbD k = (p.getLsbD k && q.getLsbD k)) ∧
  BinaryRule 0xAA .or (fun _ p q v => ∀ k, v.getLsbD k = (p.getLsbD k || q.getLsbD k)) ∧
  BinaryRule 0xAB .xor (fun _ p q v => ∀ k, v.getLsbD k = (p.getLsbD k ^^ q.getLsbD k))

/-- Rules R166, R230, R231: NOT gives `255 - x`, INC and DEC add and subtract 1 modulo 256, with no effect on FL. -/
def Obligations.ComplementIncrementDecrement : Prop :=
  UnaryRule 0x69 .not (fun p v => v.toNat = 255 - p.toNat) ∧
  UnaryRule 0x65 .inc (fun p v => v = wrap8 (p.toNat + 1)) ∧
  UnaryRule 0x66 .dec (fun p v => v = BitVec.ofInt 8 ((p.toNat : Int) - 1))

/-- Rules R167, R168, R169 (decisions D13, D14): with `SHIFT_SEMANTICS = intended` SHL and SHR shift by the whole count with
zero fill, so that a count of 8 or more gives 0; with `source_and` both compute AND. -/
def Obligations.ShiftsInBothModes : Prop :=
  BinaryRule 0xAC .shl (fun s p q v =>
    (s.params.shiftSemantics = .intended → v = wrap8 (p.toNat * 2 ^ q.toNat) ∧ (8 ≤ q.toNat → v = 0)) ∧
    (s.params.shiftSemantics = .sourceAnd → v = p &&& q)) ∧
  BinaryRule 0xAD .shr (fun s p q v =>
    (s.params.shiftSemantics = .intended → v.toNat = p.toNat / 2 ^ q.toNat ∧ (8 ≤ q.toNat → v = 0)) ∧
    (s.params.shiftSemantics = .sourceAnd → v = p &&& q))

/-- Rule R171: after CMP, E, L and G say equal, less and greater, unsigned, so exactly one is set; nothing but FL and the PC
changes. -/
def Obligations.CompareSetsOneFlag : Prop :=
  (∀ ra rb, decode [0xA7, ra, rb] = .ok (.cmp ra rb) []) ∧
  (∀ s (a b : Reg), ∃ t, exec (.cmp a.operand b.operand) s = .next t ∧
    (flE t.fl = true ↔ (s.reg a).toNat = (s.reg b).toNat) ∧
    (flL t.fl = true ↔ (s.reg a).toNat < (s.reg b).toNat) ∧
    (flG t.fl = true ↔ (s.reg b).toNat < (s.reg a).toNat) ∧
    t.pc = s.pc + 3 ∧ SameRegsBut [] s t ∧ SameMem s t ∧ t.out = s.out ∧ SameControl s t) ∧
  (∀ ra rb, RejectsBadOperand (.cmp ra rb))

/-! ### The stack -/

/-- Rules R190, R191: Push decrements SP modulo 256 and writes the value at the new SP; Pop gives the byte at SP and
increments SP modulo 256, erasing nothing. -/
def Obligations.StackPrimitives : Prop :=
  ∀ s v,
    ((s.push v).reg .r7 = BitVec.ofInt 8 (((s.reg .r7).toNat : Int) - 1) ∧
      (s.push v).readMem ((s.push v).reg .r7) = v ∧
      SameRegsBut [.r7] s (s.push v) ∧ SameMemBut [(s.push v).reg .r7] s (s.push v) ∧
      (s.push v).pc = s.pc ∧ (s.push v).fl = s.fl ∧ (s.push v).out = s.out ∧ SameControl s (s.push v)) ∧
    (s.pop.1 = s.readMem (s.reg .r7) ∧ s.pop.2.reg .r7 = wrap8 ((s.reg .r7).toNat + 1) ∧
      SameRegsBut [.r7] s s.pop.2 ∧ SameMem s s.pop.2 ∧
      s.pop.2.pc = s.pc ∧ s.pop.2.fl = s.fl ∧ s.pop.2.out = s.out ∧ SameControl s s.pop.2)

/-- PUSH (rule R192, decision D16): the register's old value, SP's own included, goes to the byte below SP. -/
def Obligations.PushStores : Prop :=
  (∀ ra, decode [0x45, ra] = .ok (.push ra) []) ∧
  (∀ s (a : Reg), ∃ t, exec (.push a.operand) s = .next t ∧
    t.reg .r7 = s.reg .r7 - 1 ∧ t.readMem (s.reg .r7 - 1) = s.reg a ∧
    SameRegsBut [.r7] s t ∧ SameMemBut [s.reg .r7 - 1] s t ∧
    t.pc = s.pc + 2 ∧ t.fl = s.fl ∧ t.out = s.out ∧ SameControl s t) ∧
  (∀ ra, RejectsBadOperand (.push ra))

/-- POP (rule R193, decision D16): the byte at SP goes to the register, written last, so that POP R7 leaves the popped byte
in SP. -/
def Obligations.PopLoads : Prop :=
  (∀ ra, decode [0x46, ra] = .ok (.pop ra) []) ∧
  (∀ s (a : Reg), ∃ t, exec (.pop a.operand) s = .next t ∧
    t.reg a = s.readMem (s.reg .r7) ∧ (a ≠ .r7 → t.reg .r7 = s.reg .r7 + 1) ∧
    SameRegsBut [a, .r7] s t ∧ SameMem s t ∧
    t.pc = s.pc + 2 ∧ t.fl = s.fl ∧ t.out = s.out ∧ SameControl s t) ∧
  (∀ ra, RejectsBadOperand (.pop ra))

/-- CALL (rule R194, decisions D11, D16): the address of the next instruction is pushed, and the PC is the register's old
value. -/
def Obligations.CallPushesReturn : Prop :=
  (∀ ra, decode [0x50, ra] = .ok (.call ra) []) ∧
  (∀ s (a : Reg), ∃ t, exec (.call a.operand) s = .next t ∧
    t.pc = s.reg a ∧ t.reg .r7 = s.reg .r7 - 1 ∧ t.readMem (s.reg .r7 - 1) = s.pc + 2 ∧
    SameRegsBut [.r7] s t ∧ SameMemBut [s.reg .r7 - 1] s t ∧
    t.fl = s.fl ∧ t.out = s.out ∧ SameControl s t) ∧
  (∀ ra, RejectsBadOperand (.call ra))

/-- RET (rule R195): the byte at SP is the new PC; R0-R6, FL and `ie` stay. -/
def Obligations.ReturnPops : Prop :=
  decode [0x11] = .ok .ret [] ∧
  ∀ s, ∃ t, exec .ret s = .next t ∧
    t.pc = s.readMem (s.reg .r7) ∧ t.reg .r7 = s.reg .r7 + 1 ∧
    SameRegsBut [.r7] s t ∧ SameMem s t ∧ t.fl = s.fl ∧ t.out = s.out ∧ SameControl s t

/-- IRET (rule R196, decisions D5, D32), anywhere: R6 down to R0, the low three bits of FL, and PC come from the nine bytes at
SP, SP rises by 9, and `ie` is set. -/
def Obligations.InterruptReturnRestores : Prop :=
  decode [0x13] = .ok .iret [] ∧
  ∀ s, ∃ t, exec .iret s = .next t ∧
    t.reg .r6 = s.readMem (s.reg .r7) ∧ t.reg .r5 = s.readMem (s.reg .r7 + 1) ∧
    t.reg .r4 = s.readMem (s.reg .r7 + 2) ∧ t.reg .r3 = s.readMem (s.reg .r7 + 3) ∧
    t.reg .r2 = s.readMem (s.reg .r7 + 4) ∧ t.reg .r1 = s.readMem (s.reg .r7 + 5) ∧
    t.reg .r0 = s.readMem (s.reg .r7 + 6) ∧
    t.fl.toNat = (s.readMem (s.reg .r7 + 7)).toNat % 8 ∧ t.pc = s.readMem (s.reg .r7 + 8) ∧
    t.reg .r7 = s.reg .r7 + 9 ∧ t.ie = true ∧
    SameMem s t ∧ t.out = s.out ∧ t.ir = s.ir ∧ t.halted = s.halted ∧ t.status = s.status ∧ t.phase = s.phase ∧
    SameSource s t

/-- Law 1 of rule R197 (derived): PUSH then POP of a register other than R7, in two EX actions with nothing between, leaves
every register as it was, and the byte below SP holds the value. -/
def Obligations.PushPopRoundTrip : Prop :=
  ∀ s (a : Reg), a ≠ .r7 →
    ∃ t u, exec (.push a.operand) s = .next t ∧ exec (.pop a.operand) t = .next u ∧
      SameRegsBut [] s u ∧ u.readMem (s.reg .r7 - 1) = s.reg a ∧ SameMemBut [s.reg .r7 - 1] s u

/-- Laws 2 and 3 of rule R197 (derived): any number of pushes and as many pops leave SP where it was, whatever SP was; up to
256 values come back in reverse order; the pops erase nothing. -/
def Obligations.ManyPushesManyPops : Prop :=
  ∀ (s : State) (vs : List Byte),
    (((s.pushAll vs).popMany vs.length).2).reg .r7 = s.reg .r7 ∧
    SameMem (s.pushAll vs) ((s.pushAll vs).popMany vs.length).2 ∧
    (vs.length ≤ 256 → ((s.pushAll vs).popMany vs.length).1 = vs.reverse)

/-- Law 4 of rule R197 (derived): after a CALL, a RET in any state that kept SP and the byte at SP resumes after the CALL,
with SP as it was before it. -/
def Obligations.CallReturnResumes : Prop :=
  ∀ s (a : Reg), ∃ t, exec (.call a.operand) s = .next t ∧
    ∀ u, u.reg .r7 = t.reg .r7 → u.readMem (t.reg .r7) = t.readMem (t.reg .r7) →
      ∃ v, exec .ret u = .next v ∧ v.pc = s.pc + 2 ∧ v.reg .r7 = s.reg .r7

/-! ### Control transfer -/

/-- JMP (rule R211): the PC is the register's value; nothing else changes. -/
def Obligations.JumpUnconditional : Prop := JumpRule 0x54 .jmp (fun _ => true)

/-- The six conditional jumps (rules R212-R217), on all eight values of FL: L is bit 2, G bit 1, E bit 0. -/
def Obligations.ConditionalJumps : Prop :=
  JumpRule 0x55 .jeq (fun fl => fl.getLsbD 0) ∧
  JumpRule 0x56 .jne (fun fl => !fl.getLsbD 0) ∧
  JumpRule 0x58 .jlt (fun fl => fl.getLsbD 2) ∧
  JumpRule 0x57 .jgt (fun fl => fl.getLsbD 1) ∧
  JumpRule 0x59 .jle (fun fl => fl.getLsbD 2 || fl.getLsbD 0) ∧
  JumpRule 0x5A .jge (fun fl => fl.getLsbD 1 || fl.getLsbD 0)

/-! ### Data movement, output, halt -/

/-- LDI (rule R240): the immediate byte, unchecked, goes to the register. -/
def Obligations.LoadImmediate : Prop :=
  (∀ ra imm, decode [0x82, ra, imm] = .ok (.ldi ra imm) []) ∧
  (∀ s (a : Reg) imm, ∃ t, exec (.ldi a.operand imm) s = .next t ∧ WritesOnly a imm 3 s t) ∧
  (∀ ra imm, RejectsBadOperand (.ldi ra imm))

/-- LD (rule R241, decision D15): the byte at the address in register B goes to register A. -/
def Obligations.LoadFromMemory : Prop :=
  (∀ ra rb, decode [0x83, ra, rb] = .ok (.ld ra rb) []) ∧
  (∀ s (a b : Reg), ∃ t, exec (.ld a.operand b.operand) s = .next t ∧ WritesOnly a (s.readMem (s.reg b)) 3 s t) ∧
  (∀ ra rb, RejectsBadOperand (.ld ra rb))

/-- ST (rule R242, decisions D15, D21): the value of register B goes to the address in register A, the key mirror, the
vectors and the program's own bytes included; no other byte and no register changes. -/
def Obligations.StoreToMemory : Prop :=
  (∀ ra rb, decode [0x84, ra, rb] = .ok (.st ra rb) []) ∧
  (∀ s (a b : Reg), ∃ t, exec (.st a.operand b.operand) s = .next t ∧
    t.readMem (s.reg a) = s.reg b ∧ SameMemBut [s.reg a] s t ∧ SameRegsBut [] s t ∧
    t.pc = s.pc + 3 ∧ t.fl = s.fl ∧ t.out = s.out ∧ SameControl s t) ∧
  (∀ ra rb, RejectsBadOperand (.st ra rb))

/-- PRN and PRA (rules R250, R251, decision D20): one event with the register's value is appended to the output stream; no
register, memory byte or flag changes. -/
def Obligations.PrintEmitsEvent : Prop :=
  (∀ ra, decode [0x47, ra] = .ok (.prn ra) [] ∧ decode [0x48, ra] = .ok (.pra ra) []) ∧
  (∀ s (a : Reg), ∃ t u, exec (.prn a.operand) s = .next t ∧ exec (.pra a.operand) s = .next u ∧
    t.out = s.out ++ [.num (s.reg a)] ∧ t.pc = s.pc + 2 ∧ SameRegsBut [] s t ∧ SameMem s t ∧ t.fl = s.fl ∧
    SameControl s t ∧
    u.out = s.out ++ [.char (s.reg a)] ∧ u.pc = s.pc + 2 ∧ SameRegsBut [] s u ∧ SameMem s u ∧ u.fl = s.fl ∧
    SameControl s u) ∧
  (∀ ra, RejectsBadOperand (.prn ra) ∧ RejectsBadOperand (.pra ra))

/-- HLT (rule R252): halted, `Halt` if the run had no terminal status, the PC advanced by 1; EF then runs and the loop is
left; and nothing resumes a machine that has left its loop. -/
def Obligations.HaltFinishesIteration : Prop :=
  decode [0x01] = .ok .hlt [] ∧
  (∀ s, ∃ t, exec .hlt s = .next t ∧
    t.halted = true ∧ (s.status = .running → t.status = .halt) ∧ (s.status ≠ .running → t.status = s.status) ∧
    t.pc = s.pc + 1 ∧ SameRegsBut [] s t ∧ SameMem s t ∧ t.fl = s.fl ∧ t.out = s.out ∧ t.ie = s.ie ∧ t.ir = s.ir ∧
    t.phase = s.phase ∧ SameSource s t ∧
    (s.phase = .ef → ∃ u, engineStep t = .next u ∧ u.leftLoop = true ∧ u.status = t.status ∧ u.pc = t.pc ∧
      u.out = t.out)) ∧
  (∀ s t, s.leftLoop = true → step s = .next t →
    t.leftLoop = true ∧ t.pc = s.pc ∧ t.ie = s.ie ∧ t.out = s.out ∧ SameMem s t)

/-! ### Memory -/

/-- Two stores to different addresses may be made in either order, and of two stores to one address the later stands; both
as equal data, on memories in canonical form (log entry 11: the form is the model's own). -/
def Obligations.MemoryWritesCommute : Prop :=
  ∀ (m : Memory) a b v w, m.wf → a < 256 → b < 256 →
    (a ≠ b → (m.write a v).write b w = (m.write b w).write a v) ∧
    (m.write a w).write a v = m.write a v

/-- Two memories in canonical form that read alike at every one of the 256 addresses are equal data (log entry 11: the form
is the model's own). -/
def Obligations.CanonicalMemoryIsUnique : Prop :=
  ∀ (m n : Memory), m.wf → n.wf → (∀ a, a < 256 → m.read a = n.read a) → m = n

/-! ### The step and the engine's actions -/

/-- A step runs the decoded instruction (rule R134): in the engine's turn at EX, when the bytes at the PC decode to `i`, the
step is `exec i` in the state whose IR holds the opcode, with EF to come and the turn taken (log entry 1). -/
def Obligations.StepRunsDecoded : Prop :=
  ∀ s i rest, s.mover = some .engine → s.halted = false → s.phase = .ex →
    decode [s.readMem s.pc, s.readMem (s.pc + 1), s.readMem (s.pc + 2)] = .ok i rest →
    step s = exec i { s.takeTurn with ir := s.readMem s.pc, phase := .ef }

/-- The interleaving (rules R8, R83, decision D17; the schedule is the model's own, log entries 1 and 4): a live source takes
the turn the schedule gives it, whatever the engine's phase; the engine takes its own turns, and those of a source that has
ended, if it has not finished; a live source takes the turns of an engine that has; with no turn listed, a free block of
turns is drawn. -/
def Obligations.StepInterleavesAgents : Prop :=
  (∀ s p rest, s.schedule = .source p :: rest → s.srcLive = true →
    step s = .next (sourceCycle p { s with schedule := rest })) ∧
  (∀ s rest, s.schedule = .engine :: rest → s.engineDone = false → step s = engineStep { s with schedule := rest }) ∧
  (∀ s, s.schedule = [] →
    step s = step { s with schedule := freeBlock s.drawn, drawn := s.drawn + 1 }) ∧
  (∀ s p rest, s.schedule = .source p :: rest → s.srcLive = false → s.engineDone = false →
    step s = engineStep { s with schedule := rest }) ∧
  (∀ s rest, s.schedule = .engine :: rest → s.engineDone = true → s.srcLive = true →
    step s = .next (sourceCycle .noKey { s with schedule := rest }))

/-- EA (rule R132): the whole byte `last_key` goes to 0xF4, in every iteration, the first included, before the interrupt
check. -/
def Obligations.KeyMirrorRefreshed : Prop :=
  State.reset.phase = .ea ∧
  ∀ s, s.phase = .ea → s.leftLoop = false →
    ∃ t, engineStep s = .next t ∧ t.readMem 0xF4 = s.lastKey ∧ SameMemBut [0xF4] s t ∧ t.phase = .eb ∧
      SameRegsBut [] s t ∧ t.pc = s.pc ∧ t.fl = s.fl ∧ t.out = s.out ∧ t.ir = s.ir ∧ t.ie = s.ie ∧
      t.halted = s.halted ∧ t.status = s.status ∧ SameSource s t

/-- EB (rules R133, R310): with nothing pending and enabled, or `ie` false, only the phase moves on; else the lowest-numbered
pending and enabled interrupt, and no other, is serviced, and `ie` is false after it. -/
def Obligations.InterruptCheckServicesLowest : Prop :=
  (∀ s, s.phase = .eb → s.halted = false → (s.reg .r6 &&& s.reg .r5 = 0 ∨ s.ie = false) →
    engineStep s = .next { s with phase := .ex }) ∧
  (∀ s (i : Fin 8), s.phase = .eb → s.halted = false → s.ie = true → (s.reg .r6 &&& s.reg .r5).getLsbD i.val = true →
    (∀ j : Fin 8, j < i → (s.reg .r6 &&& s.reg .r5).getLsbD j.val = false) →
    engineStep s = .next { s.service i with phase := .ex } ∧ (s.service i).ie = false) ∧
  (∀ s : State, s.reg .r6 &&& s.reg .r5 ≠ 0 →
    ∃ i : Fin 8, (s.reg .r6 &&& s.reg .r5).getLsbD i.val = true ∧
      ∀ j : Fin 8, j < i → (s.reg .r6 &&& s.reg .r5).getLsbD j.val = false)

/-- Interrupt service (rules R311, R312, R313, decision D25): the nine bytes of the frame and their order, IS with bit `i`
clear, SP lower by 9, `ie` clear, and the PC from the vector slot as the pushes have left it. -/
def Obligations.InterruptFrame : Prop :=
  ∀ (s : State) (i : Fin 8), ∃ t, s.service i = t ∧
    t.readMem (s.reg .r7 - 1) = s.pc ∧ (t.readMem (s.reg .r7 - 2)).toNat = s.fl.toNat ∧
    t.readMem (s.reg .r7 - 3) = s.reg .r0 ∧ t.readMem (s.reg .r7 - 4) = s.reg .r1 ∧
    t.readMem (s.reg .r7 - 5) = s.reg .r2 ∧ t.readMem (s.reg .r7 - 6) = s.reg .r3 ∧
    t.readMem (s.reg .r7 - 7) = s.reg .r4 ∧ t.readMem (s.reg .r7 - 8) = s.reg .r5 ∧
    t.readMem (s.reg .r7 - 9) = t.reg .r6 ∧
    (∀ k, (t.reg .r6).getLsbD k = ((s.reg .r6).getLsbD k && k != i.val)) ∧
    t.reg .r7 = s.reg .r7 - 9 ∧ SameRegsBut [.r6, .r7] s t ∧ SameMemBut (frameAddresses (s.reg .r7)) s t ∧
    t.ie = false ∧ t.pc = t.readMem (wrap8 (0xF8 + i.val)) ∧
    t.fl = s.fl ∧ t.out = s.out ∧ t.ir = s.ir ∧ t.halted = s.halted ∧ t.status = s.status ∧ SameSource s t

/-- The headline of interrupts (rules R314, R316, R366): whatever a handler did, if at its IRET SP and the nine bytes of the
frame are as the service left them, the interrupted program resumes: its PC, FL, SP and registers as they were, IS less the
serviced bit, interrupts enabled. -/
def Obligations.ReturnUndoesService : Prop :=
  ∀ (s : State) (i : Fin 8) (u : State), u.reg .r7 = (s.service i).reg .r7 →
    (∀ a ∈ frameAddresses (s.reg .r7), u.readMem a = (s.service i).readMem a) →
    ∃ v, exec .iret u = .next v ∧
      SameRegsBut [.r6] s v ∧ v.reg .r6 = (s.service i).reg .r6 ∧ v.fl = s.fl ∧ v.pc = s.pc ∧ v.ie = true ∧ SameMem u v

/-- EF (rule R136): on a termination request the engine halts, with `Quit` if the run had no terminal status; without one
only the phase moves on; a request stands until an EF sees it; and after the loop is left none is acted on. -/
def Obligations.TerminationCheck : Prop :=
  (∀ s, s.phase = .ef → s.termReq = true →
    ∃ t, engineStep s = .next t ∧ t.halted = true ∧ t.leftLoop = true ∧ (s.status = .running → t.status = .quit) ∧
      (s.status ≠ .running → t.status = s.status) ∧ SameRegsBut [] s t ∧ SameMem s t ∧ t.pc = s.pc ∧ t.fl = s.fl ∧
      t.out = s.out ∧ t.ir = s.ir ∧ t.ie = s.ie ∧ SameSource s t) ∧
  (∀ s, s.phase = .ef → s.termReq = false → engineStep s = .next { s with phase := .ea }) ∧
  (∀ s t, step s = .next t → s.termReq = true → t.termReq = true) ∧
  (∀ s t, s.leftLoop = true → step s = .next t → t.halted = s.halted ∧ t.status = s.status)

/-- The order of the actions (rules R130, R131, R140): an engine that has not finished has a move, and one that has never
moves; its phases follow EA, EB, EX, EF, EA; a fatal error in EX, and nothing else, skips EF (that EA stands for "no EF" is
the model's choice, log entry 5); after the loop it sets `src_stop` and nothing else. -/
def Obligations.PhaseOrder : Prop :=
  (∀ s, s.engineDone = false → ∃ t, engineStep s = .next t) ∧
  (∀ s : State, s.engineDone = true → s.mover ≠ some .engine) ∧
  (∀ s, s.leftLoop = true → s.engineDone = false → engineStep s = .next { s with srcStop := true }) ∧
  (∀ s t, s.leftLoop = false → engineStep s = .next t →
    (s.phase = .ea → t.phase = .eb) ∧ (s.phase = .eb → t.phase = .ex) ∧ (s.phase = .ef → t.phase = .ea) ∧
    (s.phase = .ex → t.phase = .ef ∨ (t.phase = .ea ∧ t.leftLoop = true)) ∧
    (s.phase = .ex → s.status = .running → (t.phase = .ea ↔ ∃ k, t.status = .fault k)))

/-- A run (rules R18, R19, R327; the stop `runOver` is the model's own, log entry 6): the machine stops exactly when the
engine has finished and the source has ended, with the run's status as the result; in every other state it has a step. -/
def Obligations.StopsOnlyWhenRunOver : Prop :=
  ∀ s,
    (s.engineDone = true ∧ s.srcLive = false → step s = .fault (.runOver s.status) ∧ runResult s = some s.status) ∧
    (¬ (s.engineDone = true ∧ s.srcLive = false) → (∃ t, step s = .next t) ∧ runResult s = none)

/-! ### The Interrupt Source -/

/-- The keyboard part of SC (rule R321): a key is recorded always, and sets IS bit 1 exactly if `ie` and IM bit 1 are set at
that moment; every other poll leaves `last_key` and IS bit 1 alone. -/
def Obligations.KeyboardPart : Prop :=
  (∀ s k, s.srcStop = false →
    (sourceCycle (.key k) s).lastKey = k ∧
    ((sourceCycle (.key k) s).reg .r6).getLsbD 1 = ((s.reg .r6).getLsbD 1 || (s.ie && (s.reg .r5).getLsbD 1))) ∧
  (∀ s p, (∀ k, p ≠ .key k) →
    (sourceCycle p s).lastKey = s.lastKey ∧ ((sourceCycle p s).reg .r6).getLsbD 1 = (s.reg .r6).getLsbD 1)

/-- The timer part of SC (rule R322, decisions D3, D24), in every cycle of a source not asked to stop: the tick counts modulo
the poll rate, IS bit 0 is set exactly on a wrap with `ie` and IM bit 0 set, and `n` cycles count `n`. -/
def Obligations.TimerPart : Prop :=
  (∀ s p, s.srcStop = false →
    (sourceCycle p s).tick = (s.tick + 1) % s.params.pollRate ∧
    ((sourceCycle p s).reg .r6).getLsbD 0 =
      ((s.reg .r6).getLsbD 0 ||
        (decide ((s.tick + 1) % s.params.pollRate = 0) && s.ie && (s.reg .r5).getLsbD 0))) ∧
  (∀ ps s, s.srcStop = false → s.tick < s.params.pollRate →
    (sourceCycles ps s).tick = (s.tick + ps.length) % s.params.pollRate)

/-- The end of the task (rules R320, R323, R327, R328): the quit key requests termination and ends the task; no other poll
does; a failed poll is no key; and once the engine has asked, SC ends the task and does nothing else. -/
def Obligations.QuitStopAndFailedPoll : Prop :=
  (∀ s, s.srcStop = false → (sourceCycle .quit s).termReq = true ∧ (sourceCycle .quit s).srcLive = false) ∧
  (∀ s p, p ≠ .quit → (sourceCycle p s).termReq = s.termReq ∧ (s.srcStop = false → (sourceCycle p s).srcLive = s.srcLive)) ∧
  (∀ s, sourceCycle .failed s = sourceCycle .noKey s) ∧
  (∀ s p, s.srcStop = true → sourceCycle p s = { s with srcLive := false })

/-- The source's reach (rule R325). What SC writes: bits 0 and 1 of IS, set and never cleared, `last_key`, `term_req`, `tick`
and `src_live`, nothing else. What it reads: two states that agree on `ie`, IM, `src_stop` and `tick` (and on the fixed
parameters) get the same writes. -/
def Obligations.SourceReach : Prop :=
  (∀ s p, ∃ t, sourceCycle p s = t ∧ SameRegsBut [.r6] s t ∧
    (∀ k, 2 ≤ k → (t.reg .r6).getLsbD k = (s.reg .r6).getLsbD k) ∧
    (∀ k, (s.reg .r6).getLsbD k = true → (t.reg .r6).getLsbD k = true) ∧
    t.mem = s.mem ∧ t.pc = s.pc ∧ t.fl = s.fl ∧ t.ir = s.ir ∧ t.ie = s.ie ∧ t.halted = s.halted ∧ t.status = s.status ∧
    t.out = s.out ∧ t.phase = s.phase ∧ t.srcStop = s.srcStop ∧ t.params = s.params ∧ t.schedule = s.schedule ∧
    t.drawn = s.drawn) ∧
  (∀ s u p, s.ie = u.ie → s.reg .r5 = u.reg .r5 → s.srcStop = u.srcStop → s.tick = u.tick → s.params = u.params →
    (sourceCycle p s).tick = (sourceCycle p u).tick ∧
    (∃ m, (sourceCycle p s).reg .r6 = s.reg .r6 ||| m ∧ (sourceCycle p u).reg .r6 = u.reg .r6 ||| m) ∧
    ((sourceCycle p s).lastKey = (sourceCycle p u).lastKey ∨
      ((sourceCycle p s).lastKey = s.lastKey ∧ (sourceCycle p u).lastKey = u.lastKey)) ∧
    (∃ b, (sourceCycle p s).termReq = (s.termReq || b) ∧ (sourceCycle p u).termReq = (u.termReq || b)) ∧
    (∃ b, (sourceCycle p s).srcLive = (s.srcLive && b) ∧ (sourceCycle p u).srcLive = (u.srcLive && b)))

/-! ### Rules of the whole machine -/

/-- What the engine cannot read (rules R37, R42, R44, R341): no engine action depends on the tick; EB, EX, EF and the last
move do not depend on `last_key`; and an instruction whose registers exist does not depend on IR. -/
def Obligations.HiddenStateNotRead : Prop :=
  (∀ s n, engineStep { s with tick := n } = mapNext (fun t => { t with tick := n }) (engineStep s)) ∧
  (∀ s k, s.phase ≠ .ea ∨ s.leftLoop = true →
    engineStep { s with lastKey := k } = mapNext (fun t => { t with lastKey := k }) (engineStep s)) ∧
  (∀ (i : Instr) s x, i.wellFormed = true →
    exec i { s with ir := x } = mapNext (fun t => { t with ir := x }) (exec i s))

/-- The writers of FL (rule R39): a step that changes FL is EX of CMP or IRET. -/
def Obligations.FlagWriters : Prop :=
  ∀ s t, step s = .next t → t.fl ≠ s.fl →
    s.mover = some .engine ∧ s.phase = .ex ∧ ((∃ ra rb, s.fetched = some (.cmp ra rb)) ∨ s.fetched = some .iret)

/-- The writers of `ie` (rules R40, R316): a step that clears it is an interrupt service in EB, and a step that sets it is EX
of IRET. -/
def Obligations.InterruptEnableWriters : Prop :=
  ∀ s t, step s = .next t →
    (s.ie = true → t.ie = false → s.mover = some .engine ∧ s.phase = .eb ∧ s.serviced.isSome = true) ∧
    (s.ie = false → t.ie = true → s.mover = some .engine ∧ s.phase = .ex ∧ s.fetched = some .iret)

/-- The writers of the PC (rule R36): a step that changes it is EX, or an interrupt service in EB. -/
def Obligations.ProgramCounterWriters : Prop :=
  ∀ s t, step s = .next t → t.pc ≠ s.pc →
    s.mover = some .engine ∧ ((s.phase = .ex ∧ s.fetched.isSome = true) ∨ (s.phase = .eb ∧ s.serviced.isSome = true))

/-- The terminal status (rule R46): `Running` at reset and until `halted` is set; a step that changes it halts the machine; a
terminal one never changes. Nor is `halted` ever cleared (rule R41). -/
def Obligations.HaltAndStatusFinal : Prop :=
  State.reset.status = .running ∧
  ∀ s t, step s = .next t →
    (s.halted = true → t.halted = true) ∧
    (s.status ≠ .running → t.status = s.status) ∧
    (t.status ≠ s.status → t.halted = true) ∧
    (s.halted = false → t.halted = true → t.status ≠ .running)

/-- Output (rule R253): a step leaves the stream as it was, or it is EX of PRN or PRA and appends one event at its end. -/
def Obligations.OutputAppends : Prop :=
  ∀ s t, step s = .next t →
    t.out = s.out ∨
      (s.mover = some .engine ∧ s.phase = .ex ∧ (∃ e, t.out = s.out ++ [e]) ∧
        ∃ ra, s.fetched = some (.prn ra) ∨ s.fetched = some (.pra ra))

/-- The writers of memory (rules R48, R76, R81): a step that changes the byte at an address is the engine's, and is EA at the
key mirror, a service at its frame, or EX of ST, PUSH or CALL at the address it stores to. -/
def Obligations.MemoryWriters : Prop :=
  ∀ s t a, step s = .next t → t.readMem a ≠ s.readMem a →
    s.mover = some .engine ∧
      ((s.phase = .ea ∧ a = 0xF4) ∨
        (s.phase = .eb ∧ s.serviced.isSome = true ∧ a ∈ frameAddresses (s.reg .r7)) ∨
        (s.phase = .ex ∧ ∃ i, s.fetched = some i ∧ a ∈ i.stores s))

/-- The headline invariant: from every state that meets it, a step leads to a state that meets it. It says the tick is below
the poll rate, `halted` and the terminal status go together (rule R46), and the source stops only for the reasons of rule
R327; and, by the model's own choices, that the memory is canonical (log entry 11) and that a halted engine stands at EA, or,
after HLT, at EF (rule R137; that the phase is EA after a fatal error is log entry 5). -/
def Obligations.InvariantKept : Prop := ∀ s t, Consistent s → step s = .next t → Consistent t

/-- The invariant holds at reset. -/
def Obligations.InvariantAtReset : Prop := Consistent State.reset

/-! ### Reset, load and run -/

/-- The state after reset (rules R350, R351; values by decisions D6, D7, D8, log entry 13). The model's own choices: `src_live`
is true, since `run()` has begun (log entry 10); the output is empty (log entry 12); the parameters stand at their defaults
in a field of State (log entry 8). -/
def Obligations.ResetState : Prop :=
  (∀ r, r ≠ .r7 → State.reset.reg r = 0x00) ∧ State.reset.reg .r7 = 0xF4 ∧
  State.reset.pc = 0x00 ∧ State.reset.ir = 0x00 ∧ State.reset.fl = 0b000 ∧
  State.reset.ie = true ∧ State.reset.halted = false ∧ State.reset.status = .running ∧ State.reset.lastKey = 0x00 ∧
  State.reset.termReq = false ∧ State.reset.tick = 0 ∧ State.reset.srcStop = false ∧ State.reset.srcLive = true ∧
  (∀ a, State.reset.readMem a = 0x00) ∧ State.reset.out = [] ∧ State.reset.phase = .ea ∧
  State.reset.params.shiftSemantics = .intended ∧ State.reset.params.pollRate = 60

/-- `load` and the start of `run()` (rules R15, R18, R327, R350, R353; decisions D8, D9, D35): an image of up to 256 bytes
stands at address 0 and nothing else has changed; a longer one is refused; `run()` gives the source fresh state, and changes
nothing on a halted machine. -/
def Obligations.LoadAndRun : Prop :=
  (∀ image s, image.length ≤ 256 →
    ∃ t, load image s = .next t ∧
      (∀ a : Byte, t.readMem a = if a.toNat < image.length then image.getD a.toNat 0 else s.readMem a) ∧
      SameRegsBut [] s t ∧ t.pc = s.pc ∧ t.fl = s.fl ∧ t.out = s.out ∧ SameControl s t) ∧
  (∀ image s, 256 < image.length → load image s = .refused (.imageTooLong image.length)) ∧
  (∀ s, s.halted = true → startRun s = s) ∧
  (∀ s, s.halted = false → (startRun s).tick = 0 ∧ (startRun s).termReq = false ∧ (startRun s).srcStop = false ∧
    (startRun s).srcLive = true ∧ (startRun s).phase = .ea ∧ SameRegsBut [] s (startRun s) ∧ SameMem s (startRun s) ∧
    (startRun s).pc = s.pc ∧ (startRun s).status = s.status) ∧
  startRun State.constructed = State.reset

/-! ### Fairness -/

/-- Weak fairness (rule R371, decision D30; the schedule is the model's own, log entries 1 and 9), from every state and for
every value of the free turns: a live source takes its next cycle, and an engine that has not finished its next action,
before the turns listed and one free block after them are used up. -/
def Obligations.BothAgentsWeaklyFair : Prop :=
  (∀ s, s.srcLive = true → ∃ k t p, k < (s.schedule ++ freeBlock s.drawn).length ∧ steps k s = .next t ∧
    t.mover = some (.source p)) ∧
  (∀ s, s.engineDone = false → ∃ k t, k < (s.schedule ++ freeBlock s.drawn).length ∧ steps k s = .next t ∧
    t.mover = some .engine)
end

