-- ==== Sys2Proof/Laws/Encoding.lean ====
section
/-! SUPPORT. The opcode byte of each instruction, and the row of the map it selects. -/

namespace Sys2Proof

@[simp] theorem opcode_hlt : Instr.hlt.opcode = 0x01 := rfl
@[simp] theorem opcode_ret : Instr.ret.opcode = 0x11 := rfl
@[simp] theorem opcode_iret : Instr.iret.opcode = 0x13 := rfl
@[simp] theorem opcode_push (ra : Byte) : (Instr.push ra).opcode = 0x45 := rfl
@[simp] theorem opcode_pop (ra : Byte) : (Instr.pop ra).opcode = 0x46 := rfl
@[simp] theorem opcode_prn (ra : Byte) : (Instr.prn ra).opcode = 0x47 := rfl
@[simp] theorem opcode_pra (ra : Byte) : (Instr.pra ra).opcode = 0x48 := rfl
@[simp] theorem opcode_call (ra : Byte) : (Instr.call ra).opcode = 0x50 := rfl
@[simp] theorem opcode_jmp (ra : Byte) : (Instr.jmp ra).opcode = 0x54 := rfl
@[simp] theorem opcode_jeq (ra : Byte) : (Instr.jeq ra).opcode = 0x55 := rfl
@[simp] theorem opcode_jne (ra : Byte) : (Instr.jne ra).opcode = 0x56 := rfl
@[simp] theorem opcode_jgt (ra : Byte) : (Instr.jgt ra).opcode = 0x57 := rfl
@[simp] theorem opcode_jlt (ra : Byte) : (Instr.jlt ra).opcode = 0x58 := rfl
@[simp] theorem opcode_jle (ra : Byte) : (Instr.jle ra).opcode = 0x59 := rfl
@[simp] theorem opcode_jge (ra : Byte) : (Instr.jge ra).opcode = 0x5A := rfl
@[simp] theorem opcode_inc (ra : Byte) : (Instr.inc ra).opcode = 0x65 := rfl
@[simp] theorem opcode_dec (ra : Byte) : (Instr.dec ra).opcode = 0x66 := rfl
@[simp] theorem opcode_not (ra : Byte) : (Instr.not ra).opcode = 0x69 := rfl
@[simp] theorem opcode_ldi (ra imm : Byte) : (Instr.ldi ra imm).opcode = 0x82 := rfl
@[simp] theorem opcode_ld (ra rb : Byte) : (Instr.ld ra rb).opcode = 0x83 := rfl
@[simp] theorem opcode_st (ra rb : Byte) : (Instr.st ra rb).opcode = 0x84 := rfl
@[simp] theorem opcode_add (ra rb : Byte) : (Instr.add ra rb).opcode = 0xA0 := rfl
@[simp] theorem opcode_sub (ra rb : Byte) : (Instr.sub ra rb).opcode = 0xA1 := rfl
@[simp] theorem opcode_mul (ra rb : Byte) : (Instr.mul ra rb).opcode = 0xA2 := rfl
@[simp] theorem opcode_div (ra rb : Byte) : (Instr.div ra rb).opcode = 0xA3 := rfl
@[simp] theorem opcode_mod (ra rb : Byte) : (Instr.mod ra rb).opcode = 0xA4 := rfl
@[simp] theorem opcode_cmp (ra rb : Byte) : (Instr.cmp ra rb).opcode = 0xA7 := rfl
@[simp] theorem opcode_and (ra rb : Byte) : (Instr.and ra rb).opcode = 0xA8 := rfl
@[simp] theorem opcode_or (ra rb : Byte) : (Instr.or ra rb).opcode = 0xAA := rfl
@[simp] theorem opcode_xor (ra rb : Byte) : (Instr.xor ra rb).opcode = 0xAB := rfl
@[simp] theorem opcode_shl (ra rb : Byte) : (Instr.shl ra rb).opcode = 0xAC := rfl
@[simp] theorem opcode_shr (ra rb : Byte) : (Instr.shr ra rb).opcode = 0xAD := rfl

/-- No two rows of the opcode map have one opcode, so decoding is unambiguous (rule R104). -/
theorem opcodeMap_distinct : opcodeMap.Pairwise (fun r q => r.opcode ≠ q.opcode) := by
  unfold opcodeMap opcodeMapShort opcodeMapLong
  decide

/-- The operand count in an opcode's bits 7-6 is that of its row's format (rules R102, R104). -/
theorem opcodeMap_operands : ∀ r ∈ opcodeMap, r.form.operands = operandCount r.opcode := by
  unfold opcodeMap opcodeMapShort opcodeMapLong
  decide

/-- The row found for an opcode is a row of the map with that opcode. -/
theorem opcodeRow_some {op : Byte} {r : OpcodeRow} (h : opcodeRow op = some r) : r ∈ opcodeMap ∧ r.opcode = op :=
  ⟨List.mem_of_find?_eq_some h, by simpa using List.find?_some h⟩

end Sys2Proof
end

