-- ==== Sys2Proof/Laws/State.lean ====
section
/-! SUPPORT. What each update of the state does to each field, by computation: the operations of Machine/Ops.lean and the two
bookkeeping updates of Machine/Engine.lean. -/

namespace Sys2Proof.Machine

variable (s : State)

/-! ### setReg -/

@[simp] theorem State.setReg_regs (r : Reg) (v : Byte) : (s.setReg r v).regs = s.regs.set r v := rfl
@[simp] theorem State.setReg_pc (r : Reg) (v : Byte) : (s.setReg r v).pc = s.pc := rfl
@[simp] theorem State.setReg_ir (r : Reg) (v : Byte) : (s.setReg r v).ir = s.ir := rfl
@[simp] theorem State.setReg_fl (r : Reg) (v : Byte) : (s.setReg r v).fl = s.fl := rfl
@[simp] theorem State.setReg_ie (r : Reg) (v : Byte) : (s.setReg r v).ie = s.ie := rfl
@[simp] theorem State.setReg_halted (r : Reg) (v : Byte) : (s.setReg r v).halted = s.halted := rfl
@[simp] theorem State.setReg_lastKey (r : Reg) (v : Byte) : (s.setReg r v).lastKey = s.lastKey := rfl
@[simp] theorem State.setReg_termReq (r : Reg) (v : Byte) : (s.setReg r v).termReq = s.termReq := rfl
@[simp] theorem State.setReg_tick (r : Reg) (v : Byte) : (s.setReg r v).tick = s.tick := rfl
@[simp] theorem State.setReg_srcStop (r : Reg) (v : Byte) : (s.setReg r v).srcStop = s.srcStop := rfl
@[simp] theorem State.setReg_srcLive (r : Reg) (v : Byte) : (s.setReg r v).srcLive = s.srcLive := rfl
@[simp] theorem State.setReg_status (r : Reg) (v : Byte) : (s.setReg r v).status = s.status := rfl
@[simp] theorem State.setReg_mem (r : Reg) (v : Byte) : (s.setReg r v).mem = s.mem := rfl
@[simp] theorem State.setReg_out (r : Reg) (v : Byte) : (s.setReg r v).out = s.out := rfl
@[simp] theorem State.setReg_phase (r : Reg) (v : Byte) : (s.setReg r v).phase = s.phase := rfl
@[simp] theorem State.setReg_params (r : Reg) (v : Byte) : (s.setReg r v).params = s.params := rfl
@[simp] theorem State.setReg_schedule (r : Reg) (v : Byte) : (s.setReg r v).schedule = s.schedule := rfl
@[simp] theorem State.setReg_drawn (r : Reg) (v : Byte) : (s.setReg r v).drawn = s.drawn := rfl
@[simp] theorem State.setReg_readMem (r : Reg) (v : Byte) (x : Byte) : (s.setReg r v).readMem x = s.readMem x := rfl

/-! ### setPc -/

@[simp] theorem State.setPc_regs (v : Byte) : (s.setPc v).regs = s.regs := rfl
@[simp] theorem State.setPc_pc (v : Byte) : (s.setPc v).pc = v := rfl
@[simp] theorem State.setPc_ir (v : Byte) : (s.setPc v).ir = s.ir := rfl
@[simp] theorem State.setPc_fl (v : Byte) : (s.setPc v).fl = s.fl := rfl
@[simp] theorem State.setPc_ie (v : Byte) : (s.setPc v).ie = s.ie := rfl
@[simp] theorem State.setPc_halted (v : Byte) : (s.setPc v).halted = s.halted := rfl
@[simp] theorem State.setPc_lastKey (v : Byte) : (s.setPc v).lastKey = s.lastKey := rfl
@[simp] theorem State.setPc_termReq (v : Byte) : (s.setPc v).termReq = s.termReq := rfl
@[simp] theorem State.setPc_tick (v : Byte) : (s.setPc v).tick = s.tick := rfl
@[simp] theorem State.setPc_srcStop (v : Byte) : (s.setPc v).srcStop = s.srcStop := rfl
@[simp] theorem State.setPc_srcLive (v : Byte) : (s.setPc v).srcLive = s.srcLive := rfl
@[simp] theorem State.setPc_status (v : Byte) : (s.setPc v).status = s.status := rfl
@[simp] theorem State.setPc_mem (v : Byte) : (s.setPc v).mem = s.mem := rfl
@[simp] theorem State.setPc_out (v : Byte) : (s.setPc v).out = s.out := rfl
@[simp] theorem State.setPc_phase (v : Byte) : (s.setPc v).phase = s.phase := rfl
@[simp] theorem State.setPc_params (v : Byte) : (s.setPc v).params = s.params := rfl
@[simp] theorem State.setPc_schedule (v : Byte) : (s.setPc v).schedule = s.schedule := rfl
@[simp] theorem State.setPc_drawn (v : Byte) : (s.setPc v).drawn = s.drawn := rfl
@[simp] theorem State.setPc_reg (v : Byte) (q : Reg) : (s.setPc v).reg q = s.reg q := rfl
@[simp] theorem State.setPc_readMem (v : Byte) (x : Byte) : (s.setPc v).readMem x = s.readMem x := rfl

/-! ### setFl -/

@[simp] theorem State.setFl_regs (f : BitVec 3) : (s.setFl f).regs = s.regs := rfl
@[simp] theorem State.setFl_pc (f : BitVec 3) : (s.setFl f).pc = s.pc := rfl
@[simp] theorem State.setFl_ir (f : BitVec 3) : (s.setFl f).ir = s.ir := rfl
@[simp] theorem State.setFl_fl (f : BitVec 3) : (s.setFl f).fl = f := rfl
@[simp] theorem State.setFl_ie (f : BitVec 3) : (s.setFl f).ie = s.ie := rfl
@[simp] theorem State.setFl_halted (f : BitVec 3) : (s.setFl f).halted = s.halted := rfl
@[simp] theorem State.setFl_lastKey (f : BitVec 3) : (s.setFl f).lastKey = s.lastKey := rfl
@[simp] theorem State.setFl_termReq (f : BitVec 3) : (s.setFl f).termReq = s.termReq := rfl
@[simp] theorem State.setFl_tick (f : BitVec 3) : (s.setFl f).tick = s.tick := rfl
@[simp] theorem State.setFl_srcStop (f : BitVec 3) : (s.setFl f).srcStop = s.srcStop := rfl
@[simp] theorem State.setFl_srcLive (f : BitVec 3) : (s.setFl f).srcLive = s.srcLive := rfl
@[simp] theorem State.setFl_status (f : BitVec 3) : (s.setFl f).status = s.status := rfl
@[simp] theorem State.setFl_mem (f : BitVec 3) : (s.setFl f).mem = s.mem := rfl
@[simp] theorem State.setFl_out (f : BitVec 3) : (s.setFl f).out = s.out := rfl
@[simp] theorem State.setFl_phase (f : BitVec 3) : (s.setFl f).phase = s.phase := rfl
@[simp] theorem State.setFl_params (f : BitVec 3) : (s.setFl f).params = s.params := rfl
@[simp] theorem State.setFl_schedule (f : BitVec 3) : (s.setFl f).schedule = s.schedule := rfl
@[simp] theorem State.setFl_drawn (f : BitVec 3) : (s.setFl f).drawn = s.drawn := rfl
@[simp] theorem State.setFl_reg (f : BitVec 3) (q : Reg) : (s.setFl f).reg q = s.reg q := rfl
@[simp] theorem State.setFl_readMem (f : BitVec 3) (x : Byte) : (s.setFl f).readMem x = s.readMem x := rfl

/-! ### advance -/

@[simp] theorem State.advance_regs (n : Nat) : (s.advance n).regs = s.regs := rfl
@[simp] theorem State.advance_pc (n : Nat) : (s.advance n).pc = s.pc + wrap8 (n + 1) := rfl
@[simp] theorem State.advance_ir (n : Nat) : (s.advance n).ir = s.ir := rfl
@[simp] theorem State.advance_fl (n : Nat) : (s.advance n).fl = s.fl := rfl
@[simp] theorem State.advance_ie (n : Nat) : (s.advance n).ie = s.ie := rfl
@[simp] theorem State.advance_halted (n : Nat) : (s.advance n).halted = s.halted := rfl
@[simp] theorem State.advance_lastKey (n : Nat) : (s.advance n).lastKey = s.lastKey := rfl
@[simp] theorem State.advance_termReq (n : Nat) : (s.advance n).termReq = s.termReq := rfl
@[simp] theorem State.advance_tick (n : Nat) : (s.advance n).tick = s.tick := rfl
@[simp] theorem State.advance_srcStop (n : Nat) : (s.advance n).srcStop = s.srcStop := rfl
@[simp] theorem State.advance_srcLive (n : Nat) : (s.advance n).srcLive = s.srcLive := rfl
@[simp] theorem State.advance_status (n : Nat) : (s.advance n).status = s.status := rfl
@[simp] theorem State.advance_mem (n : Nat) : (s.advance n).mem = s.mem := rfl
@[simp] theorem State.advance_out (n : Nat) : (s.advance n).out = s.out := rfl
@[simp] theorem State.advance_phase (n : Nat) : (s.advance n).phase = s.phase := rfl
@[simp] theorem State.advance_params (n : Nat) : (s.advance n).params = s.params := rfl
@[simp] theorem State.advance_schedule (n : Nat) : (s.advance n).schedule = s.schedule := rfl
@[simp] theorem State.advance_drawn (n : Nat) : (s.advance n).drawn = s.drawn := rfl
@[simp] theorem State.advance_reg (n : Nat) (q : Reg) : (s.advance n).reg q = s.reg q := rfl
@[simp] theorem State.advance_readMem (n : Nat) (x : Byte) : (s.advance n).readMem x = s.readMem x := rfl

/-! ### writeMem -/

@[simp] theorem State.writeMem_regs (a v : Byte) : (s.writeMem a v).regs = s.regs := rfl
@[simp] theorem State.writeMem_pc (a v : Byte) : (s.writeMem a v).pc = s.pc := rfl
@[simp] theorem State.writeMem_ir (a v : Byte) : (s.writeMem a v).ir = s.ir := rfl
@[simp] theorem State.writeMem_fl (a v : Byte) : (s.writeMem a v).fl = s.fl := rfl
@[simp] theorem State.writeMem_ie (a v : Byte) : (s.writeMem a v).ie = s.ie := rfl
@[simp] theorem State.writeMem_halted (a v : Byte) : (s.writeMem a v).halted = s.halted := rfl
@[simp] theorem State.writeMem_lastKey (a v : Byte) : (s.writeMem a v).lastKey = s.lastKey := rfl
@[simp] theorem State.writeMem_termReq (a v : Byte) : (s.writeMem a v).termReq = s.termReq := rfl
@[simp] theorem State.writeMem_tick (a v : Byte) : (s.writeMem a v).tick = s.tick := rfl
@[simp] theorem State.writeMem_srcStop (a v : Byte) : (s.writeMem a v).srcStop = s.srcStop := rfl
@[simp] theorem State.writeMem_srcLive (a v : Byte) : (s.writeMem a v).srcLive = s.srcLive := rfl
@[simp] theorem State.writeMem_status (a v : Byte) : (s.writeMem a v).status = s.status := rfl
@[simp] theorem State.writeMem_mem (a v : Byte) : (s.writeMem a v).mem = s.mem.write a.toNat v := rfl
@[simp] theorem State.writeMem_out (a v : Byte) : (s.writeMem a v).out = s.out := rfl
@[simp] theorem State.writeMem_phase (a v : Byte) : (s.writeMem a v).phase = s.phase := rfl
@[simp] theorem State.writeMem_params (a v : Byte) : (s.writeMem a v).params = s.params := rfl
@[simp] theorem State.writeMem_schedule (a v : Byte) : (s.writeMem a v).schedule = s.schedule := rfl
@[simp] theorem State.writeMem_drawn (a v : Byte) : (s.writeMem a v).drawn = s.drawn := rfl
@[simp] theorem State.writeMem_reg (a v : Byte) (q : Reg) : (s.writeMem a v).reg q = s.reg q := rfl

/-! ### emit -/

@[simp] theorem State.emit_regs (e : OutEvent) : (s.emit e).regs = s.regs := rfl
@[simp] theorem State.emit_pc (e : OutEvent) : (s.emit e).pc = s.pc := rfl
@[simp] theorem State.emit_ir (e : OutEvent) : (s.emit e).ir = s.ir := rfl
@[simp] theorem State.emit_fl (e : OutEvent) : (s.emit e).fl = s.fl := rfl
@[simp] theorem State.emit_ie (e : OutEvent) : (s.emit e).ie = s.ie := rfl
@[simp] theorem State.emit_halted (e : OutEvent) : (s.emit e).halted = s.halted := rfl
@[simp] theorem State.emit_lastKey (e : OutEvent) : (s.emit e).lastKey = s.lastKey := rfl
@[simp] theorem State.emit_termReq (e : OutEvent) : (s.emit e).termReq = s.termReq := rfl
@[simp] theorem State.emit_tick (e : OutEvent) : (s.emit e).tick = s.tick := rfl
@[simp] theorem State.emit_srcStop (e : OutEvent) : (s.emit e).srcStop = s.srcStop := rfl
@[simp] theorem State.emit_srcLive (e : OutEvent) : (s.emit e).srcLive = s.srcLive := rfl
@[simp] theorem State.emit_status (e : OutEvent) : (s.emit e).status = s.status := rfl
@[simp] theorem State.emit_mem (e : OutEvent) : (s.emit e).mem = s.mem := rfl
@[simp] theorem State.emit_out (e : OutEvent) : (s.emit e).out = s.out ++ [e] := rfl
@[simp] theorem State.emit_phase (e : OutEvent) : (s.emit e).phase = s.phase := rfl
@[simp] theorem State.emit_params (e : OutEvent) : (s.emit e).params = s.params := rfl
@[simp] theorem State.emit_schedule (e : OutEvent) : (s.emit e).schedule = s.schedule := rfl
@[simp] theorem State.emit_drawn (e : OutEvent) : (s.emit e).drawn = s.drawn := rfl
@[simp] theorem State.emit_reg (e : OutEvent) (q : Reg) : (s.emit e).reg q = s.reg q := rfl
@[simp] theorem State.emit_readMem (e : OutEvent) (x : Byte) : (s.emit e).readMem x = s.readMem x := rfl

/-! ### raiseFault -/

@[simp] theorem State.raiseFault_regs (k : FaultInfo) : (s.raiseFault k).regs = s.regs := rfl
@[simp] theorem State.raiseFault_pc (k : FaultInfo) : (s.raiseFault k).pc = s.pc := rfl
@[simp] theorem State.raiseFault_ir (k : FaultInfo) : (s.raiseFault k).ir = s.ir := rfl
@[simp] theorem State.raiseFault_fl (k : FaultInfo) : (s.raiseFault k).fl = s.fl := rfl
@[simp] theorem State.raiseFault_ie (k : FaultInfo) : (s.raiseFault k).ie = s.ie := rfl
@[simp] theorem State.raiseFault_halted (k : FaultInfo) : (s.raiseFault k).halted = true := rfl
@[simp] theorem State.raiseFault_lastKey (k : FaultInfo) : (s.raiseFault k).lastKey = s.lastKey := rfl
@[simp] theorem State.raiseFault_termReq (k : FaultInfo) : (s.raiseFault k).termReq = s.termReq := rfl
@[simp] theorem State.raiseFault_tick (k : FaultInfo) : (s.raiseFault k).tick = s.tick := rfl
@[simp] theorem State.raiseFault_srcStop (k : FaultInfo) : (s.raiseFault k).srcStop = s.srcStop := rfl
@[simp] theorem State.raiseFault_srcLive (k : FaultInfo) : (s.raiseFault k).srcLive = s.srcLive := rfl
@[simp] theorem State.raiseFault_status (k : FaultInfo) : (s.raiseFault k).status = s.status.settle (.fault k) := rfl
@[simp] theorem State.raiseFault_mem (k : FaultInfo) : (s.raiseFault k).mem = s.mem := rfl
@[simp] theorem State.raiseFault_out (k : FaultInfo) : (s.raiseFault k).out = s.out := rfl
@[simp] theorem State.raiseFault_phase (k : FaultInfo) : (s.raiseFault k).phase = .ea := rfl
@[simp] theorem State.raiseFault_params (k : FaultInfo) : (s.raiseFault k).params = s.params := rfl
@[simp] theorem State.raiseFault_schedule (k : FaultInfo) : (s.raiseFault k).schedule = s.schedule := rfl
@[simp] theorem State.raiseFault_drawn (k : FaultInfo) : (s.raiseFault k).drawn = s.drawn := rfl
@[simp] theorem State.raiseFault_reg (k : FaultInfo) (q : Reg) : (s.raiseFault k).reg q = s.reg q := rfl
@[simp] theorem State.raiseFault_readMem (k : FaultInfo) (x : Byte) : (s.raiseFault k).readMem x = s.readMem x := rfl

/-! ### fetchOpcode -/

@[simp] theorem State.fetchOpcode_regs : (s.fetchOpcode).regs = s.regs := rfl
@[simp] theorem State.fetchOpcode_pc : (s.fetchOpcode).pc = s.pc := rfl
@[simp] theorem State.fetchOpcode_ir : (s.fetchOpcode).ir = s.readMem s.pc := rfl
@[simp] theorem State.fetchOpcode_fl : (s.fetchOpcode).fl = s.fl := rfl
@[simp] theorem State.fetchOpcode_ie : (s.fetchOpcode).ie = s.ie := rfl
@[simp] theorem State.fetchOpcode_halted : (s.fetchOpcode).halted = s.halted := rfl
@[simp] theorem State.fetchOpcode_lastKey : (s.fetchOpcode).lastKey = s.lastKey := rfl
@[simp] theorem State.fetchOpcode_termReq : (s.fetchOpcode).termReq = s.termReq := rfl
@[simp] theorem State.fetchOpcode_tick : (s.fetchOpcode).tick = s.tick := rfl
@[simp] theorem State.fetchOpcode_srcStop : (s.fetchOpcode).srcStop = s.srcStop := rfl
@[simp] theorem State.fetchOpcode_srcLive : (s.fetchOpcode).srcLive = s.srcLive := rfl
@[simp] theorem State.fetchOpcode_status : (s.fetchOpcode).status = s.status := rfl
@[simp] theorem State.fetchOpcode_mem : (s.fetchOpcode).mem = s.mem := rfl
@[simp] theorem State.fetchOpcode_out : (s.fetchOpcode).out = s.out := rfl
@[simp] theorem State.fetchOpcode_phase : (s.fetchOpcode).phase = .ef := rfl
@[simp] theorem State.fetchOpcode_params : (s.fetchOpcode).params = s.params := rfl
@[simp] theorem State.fetchOpcode_schedule : (s.fetchOpcode).schedule = s.schedule := rfl
@[simp] theorem State.fetchOpcode_drawn : (s.fetchOpcode).drawn = s.drawn := rfl
@[simp] theorem State.fetchOpcode_reg (q : Reg) : (s.fetchOpcode).reg q = s.reg q := rfl
@[simp] theorem State.fetchOpcode_readMem (x : Byte) : (s.fetchOpcode).readMem x = s.readMem x := rfl

/-! ### takeTurn -/

@[simp] theorem State.takeTurn_regs : (s.takeTurn).regs = s.regs := rfl
@[simp] theorem State.takeTurn_pc : (s.takeTurn).pc = s.pc := rfl
@[simp] theorem State.takeTurn_ir : (s.takeTurn).ir = s.ir := rfl
@[simp] theorem State.takeTurn_fl : (s.takeTurn).fl = s.fl := rfl
@[simp] theorem State.takeTurn_ie : (s.takeTurn).ie = s.ie := rfl
@[simp] theorem State.takeTurn_halted : (s.takeTurn).halted = s.halted := rfl
@[simp] theorem State.takeTurn_lastKey : (s.takeTurn).lastKey = s.lastKey := rfl
@[simp] theorem State.takeTurn_termReq : (s.takeTurn).termReq = s.termReq := rfl
@[simp] theorem State.takeTurn_tick : (s.takeTurn).tick = s.tick := rfl
@[simp] theorem State.takeTurn_srcStop : (s.takeTurn).srcStop = s.srcStop := rfl
@[simp] theorem State.takeTurn_srcLive : (s.takeTurn).srcLive = s.srcLive := rfl
@[simp] theorem State.takeTurn_status : (s.takeTurn).status = s.status := rfl
@[simp] theorem State.takeTurn_mem : (s.takeTurn).mem = s.mem := rfl
@[simp] theorem State.takeTurn_out : (s.takeTurn).out = s.out := rfl
@[simp] theorem State.takeTurn_phase : (s.takeTurn).phase = s.phase := rfl
@[simp] theorem State.takeTurn_params : (s.takeTurn).params = s.params := rfl
@[simp] theorem State.takeTurn_schedule : (s.takeTurn).schedule = s.turns.tail := rfl
@[simp] theorem State.takeTurn_drawn : (s.takeTurn).drawn = if s.schedule = [] then s.drawn + 1 else s.drawn := rfl
@[simp] theorem State.takeTurn_reg (q : Reg) : (s.takeTurn).reg q = s.reg q := rfl
@[simp] theorem State.takeTurn_readMem (x : Byte) : (s.takeTurn).readMem x = s.readMem x := rfl

/-! ### push -/

@[simp] theorem State.push_regs (v : Byte) : (s.push v).regs = s.regs.set .r7 (s.reg .r7 - 1) := rfl
@[simp] theorem State.push_pc (v : Byte) : (s.push v).pc = s.pc := rfl
@[simp] theorem State.push_ir (v : Byte) : (s.push v).ir = s.ir := rfl
@[simp] theorem State.push_fl (v : Byte) : (s.push v).fl = s.fl := rfl
@[simp] theorem State.push_ie (v : Byte) : (s.push v).ie = s.ie := rfl
@[simp] theorem State.push_halted (v : Byte) : (s.push v).halted = s.halted := rfl
@[simp] theorem State.push_lastKey (v : Byte) : (s.push v).lastKey = s.lastKey := rfl
@[simp] theorem State.push_termReq (v : Byte) : (s.push v).termReq = s.termReq := rfl
@[simp] theorem State.push_tick (v : Byte) : (s.push v).tick = s.tick := rfl
@[simp] theorem State.push_srcStop (v : Byte) : (s.push v).srcStop = s.srcStop := rfl
@[simp] theorem State.push_srcLive (v : Byte) : (s.push v).srcLive = s.srcLive := rfl
@[simp] theorem State.push_status (v : Byte) : (s.push v).status = s.status := rfl
@[simp] theorem State.push_out (v : Byte) : (s.push v).out = s.out := rfl
@[simp] theorem State.push_phase (v : Byte) : (s.push v).phase = s.phase := rfl
@[simp] theorem State.push_params (v : Byte) : (s.push v).params = s.params := rfl
@[simp] theorem State.push_schedule (v : Byte) : (s.push v).schedule = s.schedule := rfl
@[simp] theorem State.push_drawn (v : Byte) : (s.push v).drawn = s.drawn := rfl

/-! ### pop -/

@[simp] theorem State.pop_regs : (s.pop.2).regs = s.regs.set .r7 (s.reg .r7 + 1) := rfl
@[simp] theorem State.pop_pc : (s.pop.2).pc = s.pc := rfl
@[simp] theorem State.pop_ir : (s.pop.2).ir = s.ir := rfl
@[simp] theorem State.pop_fl : (s.pop.2).fl = s.fl := rfl
@[simp] theorem State.pop_ie : (s.pop.2).ie = s.ie := rfl
@[simp] theorem State.pop_halted : (s.pop.2).halted = s.halted := rfl
@[simp] theorem State.pop_lastKey : (s.pop.2).lastKey = s.lastKey := rfl
@[simp] theorem State.pop_termReq : (s.pop.2).termReq = s.termReq := rfl
@[simp] theorem State.pop_tick : (s.pop.2).tick = s.tick := rfl
@[simp] theorem State.pop_srcStop : (s.pop.2).srcStop = s.srcStop := rfl
@[simp] theorem State.pop_srcLive : (s.pop.2).srcLive = s.srcLive := rfl
@[simp] theorem State.pop_status : (s.pop.2).status = s.status := rfl
@[simp] theorem State.pop_mem : (s.pop.2).mem = s.mem := rfl
@[simp] theorem State.pop_out : (s.pop.2).out = s.out := rfl
@[simp] theorem State.pop_phase : (s.pop.2).phase = s.phase := rfl
@[simp] theorem State.pop_params : (s.pop.2).params = s.params := rfl
@[simp] theorem State.pop_schedule : (s.pop.2).schedule = s.schedule := rfl
@[simp] theorem State.pop_drawn : (s.pop.2).drawn = s.drawn := rfl
@[simp] theorem State.pop_readMem (x : Byte) : (s.pop.2).readMem x = s.readMem x := rfl

/-! ### pushReg -/

@[simp] theorem State.pushReg_regs (r : Reg) : (s.pushReg r).regs = s.regs.set .r7 (s.reg .r7 - 1) := rfl
@[simp] theorem State.pushReg_pc (r : Reg) : (s.pushReg r).pc = s.pc := rfl
@[simp] theorem State.pushReg_ir (r : Reg) : (s.pushReg r).ir = s.ir := rfl
@[simp] theorem State.pushReg_fl (r : Reg) : (s.pushReg r).fl = s.fl := rfl
@[simp] theorem State.pushReg_ie (r : Reg) : (s.pushReg r).ie = s.ie := rfl
@[simp] theorem State.pushReg_halted (r : Reg) : (s.pushReg r).halted = s.halted := rfl
@[simp] theorem State.pushReg_lastKey (r : Reg) : (s.pushReg r).lastKey = s.lastKey := rfl
@[simp] theorem State.pushReg_termReq (r : Reg) : (s.pushReg r).termReq = s.termReq := rfl
@[simp] theorem State.pushReg_tick (r : Reg) : (s.pushReg r).tick = s.tick := rfl
@[simp] theorem State.pushReg_srcStop (r : Reg) : (s.pushReg r).srcStop = s.srcStop := rfl
@[simp] theorem State.pushReg_srcLive (r : Reg) : (s.pushReg r).srcLive = s.srcLive := rfl
@[simp] theorem State.pushReg_status (r : Reg) : (s.pushReg r).status = s.status := rfl
@[simp] theorem State.pushReg_out (r : Reg) : (s.pushReg r).out = s.out := rfl
@[simp] theorem State.pushReg_phase (r : Reg) : (s.pushReg r).phase = s.phase := rfl
@[simp] theorem State.pushReg_params (r : Reg) : (s.pushReg r).params = s.params := rfl
@[simp] theorem State.pushReg_schedule (r : Reg) : (s.pushReg r).schedule = s.schedule := rfl
@[simp] theorem State.pushReg_drawn (r : Reg) : (s.pushReg r).drawn = s.drawn := rfl

/-! ### popReg -/

@[simp] theorem State.popReg_pc (r : Reg) : (s.popReg r).pc = s.pc := rfl
@[simp] theorem State.popReg_ir (r : Reg) : (s.popReg r).ir = s.ir := rfl
@[simp] theorem State.popReg_fl (r : Reg) : (s.popReg r).fl = s.fl := rfl
@[simp] theorem State.popReg_ie (r : Reg) : (s.popReg r).ie = s.ie := rfl
@[simp] theorem State.popReg_halted (r : Reg) : (s.popReg r).halted = s.halted := rfl
@[simp] theorem State.popReg_lastKey (r : Reg) : (s.popReg r).lastKey = s.lastKey := rfl
@[simp] theorem State.popReg_termReq (r : Reg) : (s.popReg r).termReq = s.termReq := rfl
@[simp] theorem State.popReg_tick (r : Reg) : (s.popReg r).tick = s.tick := rfl
@[simp] theorem State.popReg_srcStop (r : Reg) : (s.popReg r).srcStop = s.srcStop := rfl
@[simp] theorem State.popReg_srcLive (r : Reg) : (s.popReg r).srcLive = s.srcLive := rfl
@[simp] theorem State.popReg_status (r : Reg) : (s.popReg r).status = s.status := rfl
@[simp] theorem State.popReg_mem (r : Reg) : (s.popReg r).mem = s.mem := rfl
@[simp] theorem State.popReg_out (r : Reg) : (s.popReg r).out = s.out := rfl
@[simp] theorem State.popReg_phase (r : Reg) : (s.popReg r).phase = s.phase := rfl
@[simp] theorem State.popReg_params (r : Reg) : (s.popReg r).params = s.params := rfl
@[simp] theorem State.popReg_schedule (r : Reg) : (s.popReg r).schedule = s.schedule := rfl
@[simp] theorem State.popReg_drawn (r : Reg) : (s.popReg r).drawn = s.drawn := rfl
@[simp] theorem State.popReg_readMem (r : Reg) (x : Byte) : (s.popReg r).readMem x = s.readMem x := rfl

@[simp] theorem State.pop_value : s.pop.1 = s.readMem (s.reg .r7) := rfl

end Sys2Proof.Machine
end

