-- ==== Sys2Proof/Laws/Memory.lean ====
section
/-! SUPPORT. The memory: a read after a write, and every operation keeps the canonical form. -/

namespace Sys2Proof.Machine

theorem Memory.read_cons (c : Host.Cell) (m : Memory) (a : Nat) :
    Memory.read (c :: m) a = if c.1 = a then c.2 else Memory.read m a := rfl

theorem Memory.read_insert (m : Memory) (a : Nat) (v : Byte) (b : Nat) :
    (m.insert a v).read b = if b = a then v else m.read b := by
  induction m with
  | nil => simp only [Memory.insert, Memory.read_cons, eq_comm]
  | cons c rest ih =>
    simp only [Memory.insert]
    split
    · simp only [Memory.read_cons, @eq_comm _ a b]
    · split
      · next _ h => subst h; simp only [Memory.read_cons, @eq_comm _ c.1 b]; split <;> rfl
      · next _ h =>
        simp only [Memory.read_cons, ih]
        split
        · next h' => rw [if_neg (fun e => h (e.symm.trans h'.symm))]
        · rfl

theorem Memory.read_erase (m : Memory) (a b : Nat) :
    (m.erase a).read b = if b = a then Config.memFill else m.read b := by
  induction m with
  | nil => simp [Memory.erase, Memory.read]
  | cons c rest ih =>
    simp only [Memory.erase] at ih ⊢
    by_cases hc : c.1 = a
    · rw [List.filter_cons_of_neg (by simp [hc]), ih, Memory.read_cons, hc]
      by_cases h : b = a
      · simp [h]
      · simp [h, Ne.symm h]
    · rw [List.filter_cons_of_pos (by simp [hc]), Memory.read_cons, Memory.read_cons, ih]
      by_cases h : b = a
      · simp [h, hc]
      · simp [h]

/-- A read after a write: the byte written at its address, the old byte everywhere else. -/
theorem Memory.read_write (m : Memory) (a : Nat) (v : Byte) (b : Nat) :
    (m.write a v).read b = if b = a then v else m.read b := by
  unfold Memory.write
  split
  · next h => rw [Memory.read_erase, h]
  · exact Memory.read_insert m a v b

/-- A read after a sequence of bytes was stored: the sequence's byte inside it, the old byte outside (rule R15). -/
theorem Memory.read_writeAll (m : Memory) (b : Nat) (vs : List Byte) (a : Nat) :
    (m.writeAll b vs).read a = if b ≤ a ∧ a < b + vs.length then vs.getD (a - b) 0 else m.read a := by
  induction vs generalizing m b with
  | nil => rw [if_neg (by simp)]; rfl
  | cons v vs ih =>
    rw [Memory.writeAll, ih, Memory.read_write]
    rcases lt_trichotomy a b with h | h | h
    · rw [if_neg (by omega), if_neg (by omega), if_neg (by omega)]
    · subst h; simp
    · obtain ⟨k, rfl⟩ := Nat.exists_eq_add_of_lt h
      rw [if_neg (show ¬ b + k + 1 = b by omega), show b + k + 1 - b = k + 1 by omega,
        show b + k + 1 - (b + 1) = k by omega, List.getD_cons_succ]
      congr 1
      simp; omega

/-! ### The canonical form -/

theorem Memory.mem_insert {m : Memory} {a : Nat} {v : Byte} {c : Host.Cell} (h : c ∈ m.insert a v) :
    c = (a, v) ∨ c ∈ m := by
  induction m with
  | nil => simpa [Memory.insert] using h
  | cons d rest ih =>
    simp only [Memory.insert] at h
    split at h
    · simpa using h
    · split at h
      · rcases List.mem_cons.1 h with h | h
        · exact .inl h
        · exact .inr (List.mem_cons_of_mem _ h)
      · rcases List.mem_cons.1 h with h | h
        · exact .inr (h ▸ List.mem_cons_self)
        · exact (ih h).imp id (List.mem_cons_of_mem _)

theorem Memory.pairwise_insert {m : Memory} (a : Nat) (v : Byte) (h : m.Pairwise (fun c d => c.1 < d.1)) :
    (m.insert a v).Pairwise (fun c d => c.1 < d.1) := by
  induction m with
  | nil => simp [Memory.insert]
  | cons d rest ih =>
    have hd := (List.pairwise_cons.1 h).1
    have hr := (List.pairwise_cons.1 h).2
    simp only [Memory.insert]
    split
    · next h1 =>
      refine List.pairwise_cons.2 ⟨fun c hc => ?_, h⟩
      rcases List.mem_cons.1 hc with rfl | hc
      · exact h1
      · exact Nat.lt_trans h1 (hd c hc)
    · split
      · next _ h2 => exact List.pairwise_cons.2 ⟨fun c hc => h2 ▸ hd c hc, hr⟩
      · next h1 h2 =>
        refine List.pairwise_cons.2 ⟨fun c hc => ?_, ih hr⟩
        rcases Memory.mem_insert hc with rfl | hc
        · show d.1 < a
          omega
        · exact hd c hc

theorem Memory.wf_erase {m : Memory} (a : Nat) (h : m.wf) : (m.erase a).wf :=
  ⟨h.1.filter _, fun c hc => h.2 c (List.mem_filter.1 hc).1⟩

/-- A write inside the 256 bytes keeps the canonical form. -/
theorem Memory.wf_write {m : Memory} {a : Nat} (v : Byte) (ha : a < 256) (h : m.wf) : (m.write a v).wf := by
  unfold Memory.write
  split
  · exact Memory.wf_erase a h
  · next hv =>
    refine ⟨Memory.pairwise_insert a v h.1, fun c hc => ?_⟩
    rcases Memory.mem_insert hc with rfl | hc
    · exact ⟨ha, hv⟩
    · exact h.2 c hc

/-- Storing a sequence of bytes inside the 256 bytes keeps the canonical form. -/
theorem Memory.wf_writeAll {m : Memory} {a : Nat} {vs : List Byte} (ha : a + vs.length ≤ 256) (h : m.wf) :
    (m.writeAll a vs).wf := by
  induction vs generalizing m a with
  | nil => exact h
  | cons v vs ih =>
    simp only [List.length_cons] at ha
    exact ih (by omega) (Memory.wf_write v (by omega) h)

theorem Memory.wf_reset : State.reset.mem.wf := by simp [State.reset, State.constructed, Memory.wf]

/-! ### The bytes of a state -/

theorem State.readMem_writeMem (s : State) (a v x : Byte) :
    (s.writeMem a v).readMem x = if x = a then v else s.readMem x := by
  simp only [State.readMem, State.writeMem, Memory.read_write, BitVec.toNat_inj]

@[simp] theorem State.readMem_writeMem_self (s : State) (a v : Byte) : (s.writeMem a v).readMem a = v := by
  simp [State.readMem_writeMem]

@[simp] theorem State.readMem_writeMem_ne (s : State) (a v : Byte) {x : Byte} (h : x ≠ a) :
    (s.writeMem a v).readMem x = s.readMem x := by simp [State.readMem_writeMem, h]

theorem State.wf_writeMem {s : State} (a v : Byte) (h : s.mem.wf) : (s.writeMem a v).mem.wf :=
  Memory.wf_write v a.isLt h

end Sys2Proof.Machine
end

