-- ==== Sys2Proof/Laws/Registers.lean ====
section
/-! SUPPORT. The register file: a read after a write, and the operand byte of each register. -/

namespace Sys2Proof.Machine

theorem Regs.get_set (g : Regs) (r q : Reg) (v : Byte) : (g.set r v).get q = if q = r then v else g.get q := by
  cases r <;> cases q <;> rfl

theorem State.reg_setReg (s : State) (r q : Reg) (v : Byte) :
    (s.setReg r v).reg q = if q = r then v else s.reg q := Regs.get_set s.regs r q v

@[simp] theorem State.reg_setReg_self (s : State) (r : Reg) (v : Byte) : (s.setReg r v).reg r = v := by
  simp [State.reg_setReg]

@[simp] theorem State.reg_setReg_ne (s : State) {r q : Reg} (v : Byte) (h : q ≠ r) :
    (s.setReg r v).reg q = s.reg q := by simp [State.reg_setReg, h]

@[simp] theorem regIdx_operand (r : Reg) : regIdx r.operand = some r := by cases r <;> rfl

/-- A byte above 7 names no register. -/
theorem regIdx_of_bad {b : Byte} (h : isRegister b = false) : regIdx b = none := by
  have h7 : 7 < b.toNat := by simpa [isRegister] using h
  unfold regIdx
  split <;> first | omega | rfl

/-- A byte up to 7 names a register, whose operand byte it is. -/
theorem exists_operand {b : Byte} (h : isRegister b = true) : ∃ r : Reg, b = r.operand := by
  have h7 : b.toNat ≤ 7 := by simpa [isRegister] using h
  have key : ∀ r : Reg, b.toNat = r.operand.toNat → b = r.operand := fun r e => BitVec.eq_of_toNat_eq e
  have cases7 : b.toNat = 0 ∨ b.toNat = 1 ∨ b.toNat = 2 ∨ b.toNat = 3 ∨ b.toNat = 4 ∨ b.toNat = 5 ∨ b.toNat = 6 ∨
      b.toNat = 7 := by omega
  rcases cases7 with e | e | e | e | e | e | e | e
  · exact ⟨.r0, key .r0 e⟩
  · exact ⟨.r1, key .r1 e⟩
  · exact ⟨.r2, key .r2 e⟩
  · exact ⟨.r3, key .r3 e⟩
  · exact ⟨.r4, key .r4 e⟩
  · exact ⟨.r5, key .r5 e⟩
  · exact ⟨.r6, key .r6 e⟩
  · exact ⟨.r7, key .r7 e⟩

@[simp] theorem isRegister_operand (r : Reg) : isRegister r.operand = true := by cases r <;> rfl

/-! ### The checked operands -/

@[simp] theorem withReg_operand (s : State) (a : Reg) (k : Reg → State) : withReg s a.operand k = k a := by
  simp [withReg]

@[simp] theorem withRegs_operand (s : State) (a b : Reg) (k : Reg → Reg → State) :
    withRegs s a.operand b.operand k = k a b := by simp [withRegs]

theorem withReg_bad (s : State) {ra : Byte} (h : isRegister ra = false) (k : Reg → State) :
    withReg s ra k = invalidRegister s ra := by simp [withReg, regIdx_of_bad h]

theorem withRegs_bad_first (s : State) {ra : Byte} (rb : Byte) (h : isRegister ra = false) (k : Reg → Reg → State) :
    withRegs s ra rb k = invalidRegister s ra := withReg_bad s h _

theorem withRegs_bad_second (s : State) (a : Reg) {rb : Byte} (h : isRegister rb = false) (k : Reg → Reg → State) :
    withRegs s a.operand rb k = invalidRegister s rb := by
  simp [withRegs, withReg_bad s h]

/-- What `withReg` can do: fault on a byte that names no register, or go on with the register it names. -/
theorem withReg_cases (s : State) (ra : Byte) (k : Reg → State) :
    (isRegister ra = false ∧ withReg s ra k = invalidRegister s ra) ∨
      ∃ a : Reg, ra = a.operand ∧ withReg s ra k = k a := by
  cases h : isRegister ra with
  | false => exact .inl ⟨rfl, withReg_bad s h k⟩
  | true =>
    obtain ⟨a, rfl⟩ := exists_operand h
    exact .inr ⟨a, rfl, withReg_operand s a k⟩

/-- What `withRegs` can do: fault on the first byte that names no register, or go on with the two registers. -/
theorem withRegs_cases (s : State) (ra rb : Byte) (k : Reg → Reg → State) :
    (∃ b, (b = ra ∨ b = rb) ∧ isRegister b = false ∧ withRegs s ra rb k = invalidRegister s b) ∨
      ∃ a b : Reg, ra = a.operand ∧ rb = b.operand ∧ withRegs s ra rb k = k a b := by
  rcases withReg_cases s ra (fun a => withReg s rb (fun b => k a b)) with ⟨h, e⟩ | ⟨a, rfl, e⟩
  · exact .inl ⟨ra, .inl rfl, h, e⟩
  · rcases withReg_cases s rb (fun b => k a b) with ⟨h, e'⟩ | ⟨b, rfl, e'⟩
    · exact .inl ⟨rb, .inr rfl, h, e.trans e'⟩
    · exact .inr ⟨a, b, rfl, rfl, e.trans e'⟩

end Sys2Proof.Machine
end

