-- ==== Sys2Proof/Laws/Ops.lean ====
section
/-! SUPPORT. The stack operations, raising a fatal error, interrupt service and return: what each can do, said once. -/

namespace Sys2Proof.Machine

/-! ### Push and pop -/

theorem State.reg_push (s : State) (v : Byte) (q : Reg) :
    (s.push v).reg q = if q = .r7 then s.reg .r7 - 1 else s.reg q := State.reg_setReg s .r7 q _

theorem State.readMem_push (s : State) (v x : Byte) :
    (s.push v).readMem x = if x = s.reg .r7 - 1 then v else s.readMem x := by
  simp only [State.push, State.readMem_writeMem, State.reg_setReg_self, State.setReg_readMem]

theorem State.reg_pop (s : State) (q : Reg) :
    s.pop.2.reg q = if q = .r7 then s.reg .r7 + 1 else s.reg q := State.reg_setReg s .r7 q _

theorem State.reg_pushReg (s : State) (r q : Reg) :
    (s.pushReg r).reg q = if q = .r7 then s.reg .r7 - 1 else s.reg q := State.reg_push s _ q

theorem State.readMem_pushReg (s : State) (r : Reg) (x : Byte) :
    (s.pushReg r).readMem x = if x = s.reg .r7 - 1 then s.reg r else s.readMem x := State.readMem_push s _ x

theorem State.reg_popReg (s : State) (r q : Reg) :
    (s.popReg r).reg q =
      if q = r then s.readMem (s.reg .r7) else if q = .r7 then s.reg .r7 + 1 else s.reg q := by
  simp only [State.popReg, State.reg_setReg, State.reg_pop, State.pop_value]

theorem State.wf_push {s : State} (v : Byte) (h : s.mem.wf) : (s.push v).mem.wf := State.wf_writeMem _ v h

theorem State.wf_pushReg {s : State} (r : Reg) (h : s.mem.wf) : (s.pushReg r).mem.wf := State.wf_push _ h

/-! ### Fatal errors -/

/-- A terminal status stands (rule R46). -/
theorem RunStatus.settle_of_ne {old : RunStatus} (new : RunStatus) (h : old ≠ .running) : old.settle new = old :=
  if_neg h

/-- Settling on a terminal status gives a terminal status. -/
theorem RunStatus.settle_ne_running {old new : RunStatus} (h : new ≠ .running) : old.settle new ≠ .running := by
  unfold RunStatus.settle
  split <;> assumption

/-- Raising a fatal error leaves what rule R302 says it leaves. -/
theorem faultStop_raiseFault (k : FaultInfo) (s : State) : FaultStop k s (s.raiseFault k) where
  halted := rfl
  recorded h := by simp [RunStatus.settle, h]
  keptStatus h := by simp [RunStatus.settle, h]
  noEF := by simp
  regs _ _ := rfl
  mem _ := rfl
  pc := rfl
  ir := rfl
  fl := rfl
  ie := rfl
  out := rfl
  source := ⟨rfl, rfl, rfl, rfl, rfl, rfl, rfl, rfl⟩

theorem faultStop_invalidRegister (s : State) (b : Byte) :
    FaultStop (.invalidRegister s.ir s.pc b) s (invalidRegister s b) := faultStop_raiseFault _ s

/-! ### Interrupt service and return -/

/-- A memory with bytes written downward from below an address. -/
def writeDown (m : Memory) (a : Byte) : List Byte → Memory
  | [] => m
  | v :: vs => writeDown (m.write (a - 1).toNat v) (a - 1) vs

/-- The nine bytes of an interrupt frame, in the order they are pushed (rule R312). -/
def State.frameBytes (s : State) (i : Fin 8) : List Byte :=
  [s.pc, flByte s.fl, s.regs.r0, s.regs.r1, s.regs.r2, s.regs.r3, s.regs.r4, s.regs.r5, s.regs.r6 &&& ~~~ irqBit i]

theorem State.push_eq (s : State) (v : Byte) :
    s.push v = { s with regs := { s.regs with r7 := s.regs.r7 - 1 }, mem := s.mem.write (s.regs.r7 - 1).toNat v } := rfl

/-- Interrupt service as one update: IS and SP, `ie`, the frame, the PC. -/
theorem State.service_eq (s : State) (i : Fin 8) : s.service i =
    { s with
      ie := false
      regs := { s.regs with r6 := s.regs.r6 &&& ~~~ irqBit i, r7 := s.regs.r7 - 9 }
      mem := writeDown s.mem s.regs.r7 (s.frameBytes i)
      pc := (writeDown s.mem s.regs.r7 (s.frameBytes i)).read (vectorSlot i).toNat } := by
  simp only [State.service, State.pushReg, State.push_eq, State.setReg, State.setPc, State.readMem, State.reg, Regs.get,
    Regs.set, writeDown, State.frameBytes]
  simp [BitVec.sub_sub]

/-- IRET as one update: the registers, `ie`, FL, the PC. -/
theorem State.returnFromInterrupt_eq (s : State) : s.returnFromInterrupt =
    { s with
      ie := true
      regs :=
        { r6 := s.readMem s.regs.r7, r5 := s.readMem (s.regs.r7 + 1), r4 := s.readMem (s.regs.r7 + 2)
          r3 := s.readMem (s.regs.r7 + 3), r2 := s.readMem (s.regs.r7 + 4), r1 := s.readMem (s.regs.r7 + 5)
          r0 := s.readMem (s.regs.r7 + 6), r7 := s.regs.r7 + 9 }
      fl := flOfByte (s.readMem (s.regs.r7 + 7))
      pc := s.readMem (s.regs.r7 + 8) } := by
  simp only [State.returnFromInterrupt, State.popReg, State.pop, State.setReg, State.setPc, State.setFl, State.readMem,
    State.reg, Regs.get, Regs.set]
  simp [BitVec.add_assoc]

section service

variable (s : State) (i : Fin 8)

@[simp] theorem State.service_ie : (s.service i).ie = false := by simp [State.service]
@[simp] theorem State.service_fl : (s.service i).fl = s.fl := by simp [State.service]
@[simp] theorem State.service_ir : (s.service i).ir = s.ir := by simp [State.service]
@[simp] theorem State.service_halted : (s.service i).halted = s.halted := by simp [State.service]
@[simp] theorem State.service_status : (s.service i).status = s.status := by simp [State.service]
@[simp] theorem State.service_out : (s.service i).out = s.out := by simp [State.service]
@[simp] theorem State.service_phase : (s.service i).phase = s.phase := by simp [State.service]
@[simp] theorem State.service_lastKey : (s.service i).lastKey = s.lastKey := by simp [State.service]
@[simp] theorem State.service_termReq : (s.service i).termReq = s.termReq := by simp [State.service]
@[simp] theorem State.service_tick : (s.service i).tick = s.tick := by simp [State.service]
@[simp] theorem State.service_srcStop : (s.service i).srcStop = s.srcStop := by simp [State.service]
@[simp] theorem State.service_srcLive : (s.service i).srcLive = s.srcLive := by simp [State.service]
@[simp] theorem State.service_params : (s.service i).params = s.params := by simp [State.service]
@[simp] theorem State.service_schedule : (s.service i).schedule = s.schedule := by simp [State.service]
@[simp] theorem State.service_drawn : (s.service i).drawn = s.drawn := by simp [State.service]

/-- A service writes its frame's nine addresses alone (rule R312). -/
theorem State.service_readMem_outside {a : Byte} (h : a ∉ frameAddresses (s.reg .r7)) :
    (s.service i).readMem a = s.readMem a := by
  simp [frameAddresses, State.reg, Regs.get] at h
  rw [State.service_eq]
  simp only [State.readMem, writeDown, State.frameBytes, Memory.read_write, BitVec.toNat_inj]
  simp [BitVec.sub_sub, h]

theorem State.wf_service (h : s.mem.wf) : (s.service i).mem.wf := by
  unfold State.service
  simp only [State.setPc_mem]
  exact State.wf_pushReg _ (State.wf_pushReg _ (State.wf_pushReg _ (State.wf_pushReg _ (State.wf_pushReg _
    (State.wf_pushReg _ (State.wf_pushReg _ (State.wf_push _ (State.wf_push _ h))))))))

end service

section iret

variable (s : State)

@[simp] theorem State.returnFromInterrupt_mem : s.returnFromInterrupt.mem = s.mem := by simp [State.returnFromInterrupt]
@[simp] theorem State.returnFromInterrupt_readMem (a : Byte) : s.returnFromInterrupt.readMem a = s.readMem a := by
  simp [State.readMem]
@[simp] theorem State.returnFromInterrupt_ie : s.returnFromInterrupt.ie = true := by simp [State.returnFromInterrupt]
@[simp] theorem State.returnFromInterrupt_ir : s.returnFromInterrupt.ir = s.ir := by simp [State.returnFromInterrupt]
@[simp] theorem State.returnFromInterrupt_halted : s.returnFromInterrupt.halted = s.halted := by simp [State.returnFromInterrupt]
@[simp] theorem State.returnFromInterrupt_status : s.returnFromInterrupt.status = s.status := by simp [State.returnFromInterrupt]
@[simp] theorem State.returnFromInterrupt_out : s.returnFromInterrupt.out = s.out := by simp [State.returnFromInterrupt]
@[simp] theorem State.returnFromInterrupt_phase : s.returnFromInterrupt.phase = s.phase := by simp [State.returnFromInterrupt]
@[simp] theorem State.returnFromInterrupt_lastKey : s.returnFromInterrupt.lastKey = s.lastKey := by simp [State.returnFromInterrupt]
@[simp] theorem State.returnFromInterrupt_termReq : s.returnFromInterrupt.termReq = s.termReq := by simp [State.returnFromInterrupt]
@[simp] theorem State.returnFromInterrupt_tick : s.returnFromInterrupt.tick = s.tick := by simp [State.returnFromInterrupt]
@[simp] theorem State.returnFromInterrupt_srcStop : s.returnFromInterrupt.srcStop = s.srcStop := by simp [State.returnFromInterrupt]
@[simp] theorem State.returnFromInterrupt_srcLive : s.returnFromInterrupt.srcLive = s.srcLive := by simp [State.returnFromInterrupt]
@[simp] theorem State.returnFromInterrupt_params : s.returnFromInterrupt.params = s.params := by simp [State.returnFromInterrupt]
@[simp] theorem State.returnFromInterrupt_schedule : s.returnFromInterrupt.schedule = s.schedule := by simp [State.returnFromInterrupt]
@[simp] theorem State.returnFromInterrupt_drawn : s.returnFromInterrupt.drawn = s.drawn := by simp [State.returnFromInterrupt]

end iret

end Sys2Proof.Machine
end

