-- ==== Sys2Proof/Laws/Exec.lean ====
section
/-! SUPPORT. Everything an instruction can do, said once: `Effect` lists the twelve shapes of a meaning, `exec_effect` says
that every instruction that goes on has one of them, and `exec_next` that every instruction goes on. -/

namespace Sys2Proof.Machine

/-- The instruction faults: a register operand names no register, or it divides by zero (rule R303). -/
def Faulty (i : Instr) (s : State) : Prop := i.wellFormed = false ∨ i.dividesByZero s = true

/-- The shapes of what `exec i s` answers. -/
inductive Effect (i : Instr) (s : State) : State → Prop where
  /-- A fatal error (rule R302). -/
  | fault (k : FaultInfo) (bad : Faulty i s) : Effect i s (s.raiseFault k)
  /-- One register is replaced: the ALU but CMP, INC, DEC, LDI, LD. -/
  | register (a : Reg) (v : Byte) (n : Nat) (ok : ¬ Faulty i s) (plain : setsPc i.opcode = false)
      (count : n = operandCount i.opcode) (goesOn : i ≠ .hlt) : Effect i s ((s.setReg a v).advance n)
  /-- CMP. -/
  | compare (a b : Reg) (e : i = .cmp a.operand b.operand) :
      Effect i s ((s.setFl (compareFlags (s.reg a) (s.reg b))).advance 2)
  /-- ST. -/
  | store (a b : Reg) (e : i = .st a.operand b.operand) : Effect i s ((s.writeMem (s.reg a) (s.reg b)).advance 2)
  /-- PUSH. -/
  | push (a : Reg) (e : i = .push a.operand) : Effect i s ((s.pushReg a).advance 1)
  /-- POP. -/
  | pop (a : Reg) (e : i = .pop a.operand) : Effect i s ((s.popReg a).advance 1)
  /-- CALL. -/
  | call (a : Reg) (e : i = .call a.operand) : Effect i s ((s.push (s.pc + 2)).setPc (s.reg a))
  /-- RET. -/
  | ret (e : i = .ret) : Effect i s (s.pop.2.setPc s.pop.1)
  /-- IRET. -/
  | iret (e : i = .iret) : Effect i s s.returnFromInterrupt
  /-- JMP and the conditional jumps. -/
  | jump (target : Byte) (ok : ¬ Faulty i s) (control : setsPc i.opcode = true) (goesOn : i ≠ .hlt) :
      Effect i s (s.setPc target)
  /-- PRN and PRA. -/
  | print (a : Reg) (ev : OutEvent) (e : i = .prn a.operand ∨ i = .pra a.operand) : Effect i s ((s.emit ev).advance 1)
  /-- HLT. -/
  | halt (e : i = .hlt) :
      Effect i s (State.advance { s with halted := true, status := s.status.settle .halt } 0)

/-- Every instruction goes on: no instruction stops the model (rule R303; a fatal error is a next state). -/
theorem exec_next (i : Instr) (s : State) : ∃ t, exec i s = .next t := by cases i <;> exact ⟨_, rfl⟩

theorem faulty_of_bad {i : Instr} {s : State} {b : Byte} (hb : b ∈ i.registerOperands) (h : isRegister b = false) :
    Faulty i s := by
  refine .inl ?_
  simp only [Instr.wellFormed, List.all_eq_false]
  exact ⟨b, hb, by simp [h]⟩

/-- One-register instructions: a fault, or the effect on the register the operand names. -/
theorem effect_withReg {i : Instr} {s t : State} {ra : Byte} {k : Reg → State} (hb : ra ∈ i.registerOperands)
    (h : t = withReg s ra k) (good : ∀ a : Reg, ra = a.operand → Effect i s (k a)) : Effect i s t := by
  rcases withReg_cases s ra k with ⟨bad, e⟩ | ⟨a, ha, e⟩
  · rw [h, e]; exact .fault _ (faulty_of_bad hb bad)
  · rw [h, e]; exact good a ha

/-- Two-register instructions: a fault, or the effect on the registers the operands name. -/
theorem effect_withRegs {i : Instr} {s t : State} {ra rb : Byte} {k : Reg → Reg → State}
    (hb : ∀ b, b = ra ∨ b = rb → b ∈ i.registerOperands) (h : t = withRegs s ra rb k)
    (good : ∀ a b : Reg, ra = a.operand → rb = b.operand → Effect i s (k a b)) : Effect i s t := by
  rcases withRegs_cases s ra rb k with ⟨b, hr, bad, e⟩ | ⟨a, b, ha, hb', e⟩
  · rw [h, e]; exact .fault _ (faulty_of_bad (hb b hr) bad)
  · rw [h, e]; exact good a b ha hb'

/-- Well-formed instructions that are neither DIV nor MOD do not fault. -/
theorem not_faulty {i : Instr} {s : State} (hw : i.wellFormed = true) (hd : i.dividesByZero s = false) : ¬ Faulty i s := by
  simp [Faulty, hw, hd]

/-- The shape of what an instruction does. -/
theorem exec_effect {i : Instr} {s t : State} (h : exec i s = .next t) : Effect i s t := by
  have two : ∀ {j : Instr} {ra rb : Byte}, j.registerOperands = [ra, rb] → ∀ b, b = ra ∨ b = rb → b ∈ j.registerOperands := by
    intro j ra rb e b hb; simpa [e] using hb
  cases i with
  | hlt => cases h; exact .halt rfl
  | ret => cases h; exact .ret rfl
  | iret => cases h; exact .iret rfl
  | push ra => cases h; exact effect_withReg (by simp [Instr.registerOperands]) rfl fun a e => .push a (e ▸ rfl)
  | pop ra => cases h; exact effect_withReg (by simp [Instr.registerOperands]) rfl fun a e => .pop a (e ▸ rfl)
  | prn ra => cases h; exact effect_withReg (by simp [Instr.registerOperands]) rfl fun a e => .print a _ (.inl (e ▸ rfl))
  | pra ra => cases h; exact effect_withReg (by simp [Instr.registerOperands]) rfl fun a e => .print a _ (.inr (e ▸ rfl))
  | call ra => cases h; exact effect_withReg (by simp [Instr.registerOperands]) rfl fun a e => .call a (e ▸ rfl)
  | jmp ra | jeq ra | jne ra | jgt ra | jlt ra | jle ra | jge ra =>
    cases h
    refine effect_withReg (by simp [Instr.registerOperands]) rfl fun a e => .jump _ (not_faulty ?_ ?_) ?_ ?_
    · simp [e, Instr.wellFormed, Instr.registerOperands]
    · rfl
    · simp [setsPc]
    · simp
  | inc ra | dec ra | not ra =>
    cases h
    refine effect_withReg (by simp [Instr.registerOperands]) rfl fun a e => .register a _ _ (not_faulty ?_ ?_) ?_ ?_ ?_
    · simp [e, Instr.wellFormed, Instr.registerOperands]
    · rfl
    · simp [setsPc]
    · simp [operandCount]
    · simp
  | ldi ra imm =>
    cases h
    refine effect_withReg (by simp [Instr.registerOperands]) rfl fun a e => .register a _ _ (not_faulty ?_ ?_) ?_ ?_ ?_
    · simp [e, Instr.wellFormed, Instr.registerOperands]
    · rfl
    · simp [setsPc]
    · simp [operandCount]
    · simp
  | st ra rb => cases h; exact effect_withRegs (two rfl) rfl fun a b ea eb => .store a b (ea ▸ eb ▸ rfl)
  | cmp ra rb => cases h; exact effect_withRegs (two rfl) rfl fun a b ea eb => .compare a b (ea ▸ eb ▸ rfl)
  | ld ra rb | add ra rb | sub ra rb | mul ra rb | and ra rb | or ra rb | xor ra rb | shl ra rb | shr ra rb =>
    cases h
    refine effect_withRegs (two rfl) rfl fun a b ea eb => .register a _ _ (not_faulty ?_ ?_) ?_ ?_ ?_
    · simp [ea, eb, Instr.wellFormed, Instr.registerOperands]
    · rfl
    · simp [setsPc]
    · simp [operandCount]
    · simp
  | div ra rb | mod ra rb =>
    cases h
    refine effect_withRegs (two rfl) rfl fun a b ea eb => ?_
    subst ea eb
    by_cases hz : s.reg b = 0
    · rw [if_pos hz]
      exact .fault _ (.inr (by simp [Instr.dividesByZero, hz]))
    · rw [if_neg hz]
      refine .register a _ _ (not_faulty ?_ ?_) ?_ ?_ ?_
      · simp [Instr.wellFormed, Instr.registerOperands]
      · simpa [Instr.dividesByZero] using hz
      · simp [setsPc]
      · simp [operandCount]
      · simp

/-- No instruction touches what the Interrupt Source owns or shares, IS apart. -/
theorem exec_sameSource {i : Instr} {s t : State} (h : exec i s = .next t) : SameSource s t := by
  cases exec_effect h <;> constructor <;> simp

/-- Every instruction keeps the memory's canonical form. -/
theorem exec_memWf {i : Instr} {s t : State} (h : exec i s = .next t) (hm : s.mem.wf) : t.mem.wf := by
  cases exec_effect h with
  | store a b _ => exact State.wf_writeMem _ _ hm
  | push a _ => exact State.wf_pushReg _ hm
  | call a _ => exact State.wf_push _ hm
  | _ => simpa using hm

end Sys2Proof.Machine
end

