-- ==== Sys2Proof/Laws/PerInstr.lean ====
section
/-! SUPPORT. The layout of every instruction's encoding, one lemma for each instruction (rules R102, R103, R112). -/

namespace Sys2Proof.Laws.OperandLayout

/-- The encoding is the opcode and at most two operand bytes, as many as the opcode's bits 7-6 say, and it begins its operand
bytes with the instruction's register operands, in order. -/
def Statement (i : Instr) : Prop :=
  ∃ operands, encode i = i.opcode :: operands ∧ operands.length = operandCount i.opcode ∧ operands.length ≤ 2 ∧
    i.registerOperands <+: operands

theorem hlt : Statement Instr.hlt :=
  ⟨[], rfl, by simp [operandCount], by simp, ⟨[], rfl⟩⟩

theorem ret : Statement Instr.ret :=
  ⟨[], rfl, by simp [operandCount], by simp, ⟨[], rfl⟩⟩

theorem iret : Statement Instr.iret :=
  ⟨[], rfl, by simp [operandCount], by simp, ⟨[], rfl⟩⟩

theorem push (ra : Byte) : Statement (Instr.push ra) :=
  ⟨[ra], rfl, by simp [operandCount], by simp, ⟨[], rfl⟩⟩

theorem pop (ra : Byte) : Statement (Instr.pop ra) :=
  ⟨[ra], rfl, by simp [operandCount], by simp, ⟨[], rfl⟩⟩

theorem prn (ra : Byte) : Statement (Instr.prn ra) :=
  ⟨[ra], rfl, by simp [operandCount], by simp, ⟨[], rfl⟩⟩

theorem pra (ra : Byte) : Statement (Instr.pra ra) :=
  ⟨[ra], rfl, by simp [operandCount], by simp, ⟨[], rfl⟩⟩

theorem call (ra : Byte) : Statement (Instr.call ra) :=
  ⟨[ra], rfl, by simp [operandCount], by simp, ⟨[], rfl⟩⟩

theorem jmp (ra : Byte) : Statement (Instr.jmp ra) :=
  ⟨[ra], rfl, by simp [operandCount], by simp, ⟨[], rfl⟩⟩

theorem jeq (ra : Byte) : Statement (Instr.jeq ra) :=
  ⟨[ra], rfl, by simp [operandCount], by simp, ⟨[], rfl⟩⟩

theorem jne (ra : Byte) : Statement (Instr.jne ra) :=
  ⟨[ra], rfl, by simp [operandCount], by simp, ⟨[], rfl⟩⟩

theorem jgt (ra : Byte) : Statement (Instr.jgt ra) :=
  ⟨[ra], rfl, by simp [operandCount], by simp, ⟨[], rfl⟩⟩

theorem jlt (ra : Byte) : Statement (Instr.jlt ra) :=
  ⟨[ra], rfl, by simp [operandCount], by simp, ⟨[], rfl⟩⟩

theorem jle (ra : Byte) : Statement (Instr.jle ra) :=
  ⟨[ra], rfl, by simp [operandCount], by simp, ⟨[], rfl⟩⟩

theorem jge (ra : Byte) : Statement (Instr.jge ra) :=
  ⟨[ra], rfl, by simp [operandCount], by simp, ⟨[], rfl⟩⟩

theorem inc (ra : Byte) : Statement (Instr.inc ra) :=
  ⟨[ra], rfl, by simp [operandCount], by simp, ⟨[], rfl⟩⟩

theorem dec (ra : Byte) : Statement (Instr.dec ra) :=
  ⟨[ra], rfl, by simp [operandCount], by simp, ⟨[], rfl⟩⟩

theorem not (ra : Byte) : Statement (Instr.not ra) :=
  ⟨[ra], rfl, by simp [operandCount], by simp, ⟨[], rfl⟩⟩

theorem ldi (ra imm : Byte) : Statement (Instr.ldi ra imm) :=
  ⟨[ra, imm], rfl, by simp [operandCount], by simp, ⟨[imm], rfl⟩⟩

theorem ld (ra rb : Byte) : Statement (Instr.ld ra rb) :=
  ⟨[ra, rb], rfl, by simp [operandCount], by simp, ⟨[], rfl⟩⟩

theorem st (ra rb : Byte) : Statement (Instr.st ra rb) :=
  ⟨[ra, rb], rfl, by simp [operandCount], by simp, ⟨[], rfl⟩⟩

theorem add (ra rb : Byte) : Statement (Instr.add ra rb) :=
  ⟨[ra, rb], rfl, by simp [operandCount], by simp, ⟨[], rfl⟩⟩

theorem sub (ra rb : Byte) : Statement (Instr.sub ra rb) :=
  ⟨[ra, rb], rfl, by simp [operandCount], by simp, ⟨[], rfl⟩⟩

theorem mul (ra rb : Byte) : Statement (Instr.mul ra rb) :=
  ⟨[ra, rb], rfl, by simp [operandCount], by simp, ⟨[], rfl⟩⟩

theorem div (ra rb : Byte) : Statement (Instr.div ra rb) :=
  ⟨[ra, rb], rfl, by simp [operandCount], by simp, ⟨[], rfl⟩⟩

theorem mod (ra rb : Byte) : Statement (Instr.mod ra rb) :=
  ⟨[ra, rb], rfl, by simp [operandCount], by simp, ⟨[], rfl⟩⟩

theorem cmp (ra rb : Byte) : Statement (Instr.cmp ra rb) :=
  ⟨[ra, rb], rfl, by simp [operandCount], by simp, ⟨[], rfl⟩⟩

theorem and (ra rb : Byte) : Statement (Instr.and ra rb) :=
  ⟨[ra, rb], rfl, by simp [operandCount], by simp, ⟨[], rfl⟩⟩

theorem or (ra rb : Byte) : Statement (Instr.or ra rb) :=
  ⟨[ra, rb], rfl, by simp [operandCount], by simp, ⟨[], rfl⟩⟩

theorem xor (ra rb : Byte) : Statement (Instr.xor ra rb) :=
  ⟨[ra, rb], rfl, by simp [operandCount], by simp, ⟨[], rfl⟩⟩

theorem shl (ra rb : Byte) : Statement (Instr.shl ra rb) :=
  ⟨[ra, rb], rfl, by simp [operandCount], by simp, ⟨[], rfl⟩⟩

theorem shr (ra rb : Byte) : Statement (Instr.shr ra rb) :=
  ⟨[ra, rb], rfl, by simp [operandCount], by simp, ⟨[], rfl⟩⟩

end Sys2Proof.Laws.OperandLayout
end

