-- ==== Sys2Proof/Laws/Source.lean ====
section
/-! SUPPORT. What one source cycle can do. It is one state update: four fields and IS; `sourceCycle_eq` says it whole. -/

namespace Sys2Proof.Machine

/-- Raising an interrupt as an update of IS alone: the OR with a bit, or with nothing. -/
theorem State.raiseIrq_eq (s : State) (i : Fin 8) :
    s.raiseIrq i = s.setReg .r6 (s.reg .r6 ||| if s.permits i then irqBit i else 0) := by
  unfold State.raiseIrq
  split
  · rfl
  · simp [State.setReg, Regs.set, State.reg, Regs.get]

theorem permits_setReg_r6 (s : State) (v : Byte) (i : Fin 8) : (s.setReg .r6 v).permits i = s.permits i := rfl

theorem setReg_r6_same (s : State) : s.setReg .r6 (s.reg .r6 ||| 0) = s := by
  have e : s.reg .r6 ||| 0 = s.reg .r6 := by simp
  rw [e]; rfl

/-- The bit the keyboard part sets in IS. -/
def keyboardBits (p : Poll) (s : State) : Byte :=
  match p with
  | .key _ => if s.permits keyboardIrq then irqBit keyboardIrq else 0
  | _ => 0

/-- `last_key` after the keyboard part. -/
def keyboardKey (p : Poll) (s : State) : Byte :=
  match p with
  | .key k => k
  | _ => s.lastKey

/-- The bit the timer part sets in IS. -/
def timerBits (s : State) : Byte :=
  if (s.tick + 1) % s.params.pollRate = 0 then (if s.permits timerIrq then irqBit timerIrq else 0) else 0

theorem keyboardPart_eq (p : Poll) (s : State) :
    keyboardPart p s = { s.setReg .r6 (s.reg .r6 ||| keyboardBits p s) with lastKey := keyboardKey p s } := by
  cases p with
  | key k => exact State.raiseIrq_eq _ _
  | _ => simp only [keyboardBits, setReg_r6_same]; rfl

theorem timerPart_eq (s : State) :
    timerPart s =
      { s.setReg .r6 (s.reg .r6 ||| timerBits s) with tick := (s.tick + 1) % s.params.pollRate } := by
  unfold timerPart timerBits
  by_cases h : (s.tick + 1) % s.params.pollRate = 0
  · rw [if_pos h, if_pos (show s.countTick.tick = 0 from h)]
    exact State.raiseIrq_eq _ _
  · rw [if_neg h, if_neg (show ¬ s.countTick.tick = 0 from h), setReg_r6_same]
    rfl

theorem quitPart_eq (p : Poll) (s : State) :
    quitPart p s = { s with termReq := s.termReq || decide (p = .quit), srcLive := s.srcLive && !(decide (p = .quit)) } := by
  cases p <;> simp [quitPart]

/-- The bits a source cycle sets in IS. -/
def sourceBits (p : Poll) (s : State) : Byte :=
  if s.srcStop then 0 else keyboardBits p s ||| timerBits s

/-- `last_key` after a source cycle. -/
def sourceKey (p : Poll) (s : State) : Byte := if s.srcStop then s.lastKey else keyboardKey p s

/-- A source cycle, whole: the tick, `last_key`, IS, and on the quit key or a stop the end of the task. -/
theorem sourceCycle_eq (p : Poll) (s : State) :
    sourceCycle p s =
      { s.setReg .r6 (s.reg .r6 ||| sourceBits p s) with
        lastKey := sourceKey p s
        tick := if s.srcStop then s.tick else (s.tick + 1) % s.params.pollRate
        termReq := s.termReq || (!s.srcStop && decide (p = .quit))
        srcLive := s.srcLive && !(s.srcStop || decide (p = .quit)) } := by
  unfold sourceCycle sourceBits sourceKey
  cases h : s.srcStop with
  | true =>
    rw [if_pos rfl, if_pos rfl, setReg_r6_same]
    simp [h]
  | false =>
    rw [if_neg (by simp), quitPart_eq, timerPart_eq, keyboardPart_eq]
    simp [State.setReg, Regs.set, State.reg, Regs.get, BitVec.or_assoc, timerBits, State.permits, h]

section fields

variable (p : Poll) (s : State)

@[simp] theorem sourceCycle_pc : (sourceCycle p s).pc = s.pc := by rw [sourceCycle_eq]; rfl
@[simp] theorem sourceCycle_ir : (sourceCycle p s).ir = s.ir := by rw [sourceCycle_eq]; rfl
@[simp] theorem sourceCycle_fl : (sourceCycle p s).fl = s.fl := by rw [sourceCycle_eq]; rfl
@[simp] theorem sourceCycle_ie : (sourceCycle p s).ie = s.ie := by rw [sourceCycle_eq]; rfl
@[simp] theorem sourceCycle_halted : (sourceCycle p s).halted = s.halted := by rw [sourceCycle_eq]; rfl
@[simp] theorem sourceCycle_status : (sourceCycle p s).status = s.status := by rw [sourceCycle_eq]; rfl
@[simp] theorem sourceCycle_mem : (sourceCycle p s).mem = s.mem := by rw [sourceCycle_eq]; rfl
@[simp] theorem sourceCycle_out : (sourceCycle p s).out = s.out := by rw [sourceCycle_eq]; rfl
@[simp] theorem sourceCycle_phase : (sourceCycle p s).phase = s.phase := by rw [sourceCycle_eq]; rfl
@[simp] theorem sourceCycle_srcStop : (sourceCycle p s).srcStop = s.srcStop := by rw [sourceCycle_eq]; rfl
@[simp] theorem sourceCycle_params : (sourceCycle p s).params = s.params := by rw [sourceCycle_eq]; rfl
@[simp] theorem sourceCycle_schedule : (sourceCycle p s).schedule = s.schedule := by rw [sourceCycle_eq]; rfl
@[simp] theorem sourceCycle_drawn : (sourceCycle p s).drawn = s.drawn := by rw [sourceCycle_eq]; rfl

@[simp] theorem sourceCycle_readMem (a : Byte) : (sourceCycle p s).readMem a = s.readMem a := by simp [State.readMem]

theorem sourceCycle_reg (q : Reg) :
    (sourceCycle p s).reg q = if q = .r6 then s.reg .r6 ||| sourceBits p s else s.reg q := by
  rw [sourceCycle_eq]; exact State.reg_setReg s .r6 q _

theorem sourceCycle_lastKey : (sourceCycle p s).lastKey = sourceKey p s := by rw [sourceCycle_eq]

theorem sourceCycle_tick :
    (sourceCycle p s).tick = if s.srcStop then s.tick else (s.tick + 1) % s.params.pollRate := by rw [sourceCycle_eq]

theorem sourceCycle_termReq : (sourceCycle p s).termReq = (s.termReq || (!s.srcStop && decide (p = .quit))) := by
  rw [sourceCycle_eq]

theorem sourceCycle_srcLive : (sourceCycle p s).srcLive = (s.srcLive && !(s.srcStop || decide (p = .quit))) := by
  rw [sourceCycle_eq]

end fields

/-- The bits a source cycle sets in IS, one by one: bit 1 for a key, bit 0 for a wrap of the tick, each while permitted
(rules R321, R322). -/
theorem sourceBits_getLsbD (p : Poll) (s : State) (k : Nat) :
    (sourceBits p s).getLsbD k =
      (!s.srcStop &&
        ((match p with | .key _ => k == 1 && (s.ie && (s.reg .r5).getLsbD 1) | _ => false) ||
          (k == 0 && (decide ((s.tick + 1) % s.params.pollRate = 0) && s.ie && (s.reg .r5).getLsbD 0)))) := by
  have bit (i : Fin 8) (k : Nat) : (irqBit i).getLsbD k = (k == i.val) := by
    by_cases h : k < 8
    · revert i; interval_cases k <;> decide
    · rw [BitVec.getLsbD_of_ge _ _ (by omega)]
      symm
      simp; omega
  have v1 : keyboardIrq.val = 1 := rfl
  have v0 : timerIrq.val = 0 := rfl
  unfold sourceBits timerBits keyboardBits State.permits
  cases s.srcStop <;> cases p <;> cases s.ie <;> simp [v1, v0] <;> (repeat' split) <;> simp_all

end Sys2Proof.Machine
end

