-- ==== Sys2Proof/Laws/Step.lean ====
section
/-! SUPPORT. Everything one step can do, said once: `step_cases`. -/

namespace Sys2Proof.Machine

/-- What a step that goes on has done. -/
inductive StepCase (s : State) : State → Prop where
  /-- SC of the live Interrupt Source (rule R320). -/
  | source (p : Poll) (m : s.mover = some (.source p)) (live : s.srcLive = true) : StepCase s (sourceCycle p s.takeTurn)
  /-- The engine's last move (rule R130). -/
  | stopSource (m : s.mover = some .engine) (left : s.leftLoop = true) : StepCase s { s.takeTurn with srcStop := true }
  /-- EA (rule R132). -/
  | ea (m : s.mover = some .engine) (inLoop : s.leftLoop = false) (p : s.phase = .ea) : StepCase s (actionEA s.takeTurn)
  /-- EB with nothing to service (rule R133). -/
  | ebIdle (m : s.mover = some .engine) (inLoop : s.leftLoop = false) (p : s.phase = .eb) (none : s.serviced = none) :
      StepCase s { s.takeTurn with phase := .ex }
  /-- EB with a service (rules R133, R311). -/
  | ebService (i : Fin 8) (m : s.mover = some .engine) (inLoop : s.leftLoop = false) (p : s.phase = .eb)
      (some : s.serviced = some i) : StepCase s { s.takeTurn.service i with phase := .ex }
  /-- EX of an unimplemented opcode (rule R105). -/
  | exUnimplemented (m : s.mover = some .engine) (inLoop : s.leftLoop = false) (p : s.phase = .ex)
      (none : s.fetched = none) :
      StepCase s (s.takeTurn.fetchOpcode.raiseFault (.unimplementedInstruction (s.readMem s.pc) s.pc))
  /-- EX of an instruction (rule R134). -/
  | ex (i : Instr) (t : State) (m : s.mover = some .engine) (inLoop : s.leftLoop = false) (p : s.phase = .ex)
      (some : s.fetched = some i) (run : exec i s.takeTurn.fetchOpcode = .next t) : StepCase s t
  /-- EF with a termination request (rule R136). -/
  | efQuit (m : s.mover = some .engine) (inLoop : s.leftLoop = false) (p : s.phase = .ef) (req : s.termReq = true) :
      StepCase s { s.takeTurn with halted := true, status := s.status.settle .quit, phase := .ea }
  /-- EF without one. -/
  | efOn (m : s.mover = some .engine) (inLoop : s.leftLoop = false) (p : s.phase = .ef) (req : s.termReq = false) :
      StepCase s { s.takeTurn with phase := .ea }

/-! ### The schedule -/

@[simp] theorem freeBlock_ne_nil (n : Nat) : freeBlock n ≠ [] := by simp [freeBlock]

/-- With turns listed, they are the turns to come. -/
theorem State.turns_of_ne_nil {s : State} (h : s.schedule ≠ []) : s.turns = s.schedule := if_neg h

/-- With none listed, the next free block is. -/
theorem State.turns_of_nil {s : State} (h : s.schedule = []) : s.turns = freeBlock s.drawn := if_pos h

theorem State.turns_ne_nil (s : State) : s.turns ≠ [] := by
  by_cases h : s.schedule = []
  · simp [State.turns_of_nil h]
  · rwa [State.turns_of_ne_nil h]

/-- Taking a listed turn takes it off the list and draws nothing. -/
theorem State.takeTurn_of_cons {s : State} {u : Turn} {rest : List Turn} (h : s.schedule = u :: rest) :
    s.takeTurn = { s with schedule := rest } := by
  simp [State.takeTurn, State.turns, h]

/-- The turns to come are the beginning of the listed turns with a free block after them. -/
theorem State.turns_head? (s : State) : s.turns.head? = (s.schedule ++ freeBlock s.drawn).head? := by
  cases h : s.schedule <;> simp [State.turns, h]

theorem takeTurn_serviced (s : State) : s.takeTurn.serviced = s.serviced := rfl

theorem takeTurn_fetched (s : State) : s.takeTurn.fetched = s.fetched := rfl

theorem takeTurn_leftLoop (s : State) : s.takeTurn.leftLoop = s.leftLoop := rfl

/-- The source moves only while it is live. -/
theorem live_of_mover {s : State} {p : Poll} (h : s.mover = some (.source p)) : s.srcLive = true := by
  unfold State.mover at h
  cases hl : s.srcLive with
  | true => rfl
  | false =>
    exfalso
    revert h
    rw [hl]
    split <;> · cases s.engineDone <;> simp

/-- The engine moves only while it is not done. -/
theorem notDone_of_mover {s : State} (h : s.mover = some .engine) : s.engineDone = false := by
  unfold State.mover at h
  cases hd : s.engineDone with
  | false => rfl
  | true =>
    exfalso
    revert h
    rw [hd]
    split <;> · cases s.srcLive <;> simp

/-- What a step can do. -/
theorem step_cases {s t : State} (h : step s = .next t) : StepCase s t := by
  unfold step nextAction at h
  split at h
  · next m =>
    unfold engineStep at h
    rw [takeTurn_leftLoop] at h
    cases hl : s.leftLoop with
    | true =>
      rw [hl, if_pos rfl] at h
      cases h
      exact .stopSource m hl
    | false =>
      rw [hl, if_neg (by simp)] at h
      rw [State.takeTurn_phase] at h
      cases hp : s.phase with
      | ea => rw [hp] at h; cases h; exact .ea m hl hp
      | eb =>
        rw [hp] at h
        simp only [actionEB, takeTurn_serviced] at h
        cases hs : s.serviced with
        | none => rw [hs] at h; cases h; exact .ebIdle m hl hp hs
        | some i => rw [hs] at h; cases h; exact .ebService i m hl hp hs
      | ex =>
        rw [hp] at h
        simp only [actionEX, takeTurn_fetched] at h
        cases hf : s.fetched with
        | none => rw [hf] at h; cases h; exact .exUnimplemented m hl hp hf
        | some i => rw [hf] at h; exact .ex i t m hl hp hf h
      | ef =>
        rw [hp] at h
        unfold actionEF at h
        cases hr : s.termReq with
        | true => rw [if_pos (show s.takeTurn.termReq = true from hr)] at h; cases h; exact .efQuit m hl hp hr
        | false =>
          rw [if_neg (show ¬ s.takeTurn.termReq = true by simp [hr])] at h
          cases h
          exact .efOn m hl hp hr
  · next p m => cases h; exact .source p m (live_of_mover m)
  · cases h

/-- Every step keeps the memory's canonical form. -/
theorem step_memWf {s t : State} (h : step s = .next t) (hm : s.mem.wf) : t.mem.wf := by
  have w : s.takeTurn.mem.wf := hm
  cases step_cases h with
  | source p m _ => rw [sourceCycle_mem]; exact w
  | ea =>
    have e : (actionEA s.takeTurn).mem = (s.takeTurn.writeMem keyMirror s.takeTurn.lastKey).mem := rfl
    rw [e]
    exact State.wf_writeMem _ _ w
  | ebService i =>
    have e := State.wf_service s.takeTurn i w
    exact e
  | ex i t m _ p n run => exact exec_memWf run w
  | _ => exact w

end Sys2Proof.Machine
end

