-- ==== Sys2Proof/Tests/Slice0.lean ====
section
/-! SUPPORT. The model's own tests. Every expected value is taken from spec/: the words from the "Encoding" lines and rule
R104, the effects from the vectors of spec/95_test_vectors.md (named at each group). The last part shows, for every
obligation with hypotheses, a state that meets them. -/

namespace Sys2Proof.Tests

open Machine

/-! ### Well-formedness: each check refuses an ill-formed term (rule R108) -/

theorem test_wellFormed_first : (Instr.push 0x08).wellFormed = false := by decide
theorem test_wellFormed_second : (Instr.add 0x00 0x08).wellFormed = false := by decide
theorem test_wellFormed_ldi : (Instr.ldi 0x09 0x05).wellFormed = false := by decide
theorem test_wellFormed_immediate : (Instr.ldi 0x07 0xFF).wellFormed = true := by decide
theorem test_wellFormed_first_checked_first : (Instr.div 0x09 0x08).badOperand = some 0x09 := by decide

/-! ### Decoding: a word of every instruction, bit by bit from rule R104 -/

theorem test_decode_hlt : decode [0b00000001] = .ok .hlt [] := by decide
theorem test_decode_ret : decode [0b00010001] = .ok .ret [] := by decide
theorem test_decode_iret : decode [0b00010011] = .ok .iret [] := by decide
theorem test_decode_push : decode [0b01000101, 0x07] = .ok (.push 0x07) [] := by decide
theorem test_decode_pop : decode [0b01000110, 0x01] = .ok (.pop 0x01) [] := by decide
theorem test_decode_prn : decode [0b01000111, 0x02] = .ok (.prn 0x02) [] := by decide
theorem test_decode_pra : decode [0b01001000, 0x03] = .ok (.pra 0x03) [] := by decide
theorem test_decode_call : decode [0b01010000, 0x04] = .ok (.call 0x04) [] := by decide
theorem test_decode_jmp : decode [0b01010100, 0x02] = .ok (.jmp 0x02) [] := by decide
theorem test_decode_jeq : decode [0b01010101, 0x02] = .ok (.jeq 0x02) [] := by decide
theorem test_decode_jne : decode [0b01010110, 0x02] = .ok (.jne 0x02) [] := by decide
theorem test_decode_jgt : decode [0b01010111, 0x02] = .ok (.jgt 0x02) [] := by decide
theorem test_decode_jlt : decode [0b01011000, 0x02] = .ok (.jlt 0x02) [] := by decide
theorem test_decode_jle : decode [0b01011001, 0x02] = .ok (.jle 0x02) [] := by decide
theorem test_decode_jge : decode [0b01011010, 0x02] = .ok (.jge 0x02) [] := by decide
theorem test_decode_inc : decode [0b01100101, 0x06] = .ok (.inc 0x06) [] := by decide
theorem test_decode_dec : decode [0b01100110, 0x06] = .ok (.dec 0x06) [] := by decide
theorem test_decode_not : decode [0b01101001, 0x05] = .ok (.not 0x05) [] := by decide
theorem test_decode_ldi : decode [0b10000010, 0x03, 0xE0] = .ok (.ldi 0x03 0xE0) [] := by decide
theorem test_decode_ld : decode [0b10000011, 0x04, 0x03] = .ok (.ld 0x04 0x03) [] := by decide
theorem test_decode_st : decode [0b10000100, 0x03, 0x00] = .ok (.st 0x03 0x00) [] := by decide
theorem test_decode_add : decode [0b10100000, 0x00, 0x01] = .ok (.add 0x00 0x01) [] := by decide
theorem test_decode_sub : decode [0b10100001, 0x00, 0x01] = .ok (.sub 0x00 0x01) [] := by decide
theorem test_decode_mul : decode [0b10100010, 0x00, 0x01] = .ok (.mul 0x00 0x01) [] := by decide
theorem test_decode_div : decode [0b10100011, 0x00, 0x01] = .ok (.div 0x00 0x01) [] := by decide
theorem test_decode_mod : decode [0b10100100, 0x00, 0x01] = .ok (.mod 0x00 0x01) [] := by decide
theorem test_decode_cmp : decode [0b10100111, 0x00, 0x01] = .ok (.cmp 0x00 0x01) [] := by decide
theorem test_decode_and : decode [0b10101000, 0x00, 0x01] = .ok (.and 0x00 0x01) [] := by decide
theorem test_decode_or : decode [0b10101010, 0x00, 0x01] = .ok (.or 0x00 0x01) [] := by decide
theorem test_decode_xor : decode [0b10101011, 0x00, 0x01] = .ok (.xor 0x00 0x01) [] := by decide
theorem test_decode_shl : decode [0b10101100, 0x00, 0x01] = .ok (.shl 0x00 0x01) [] := by decide
theorem test_decode_shr : decode [0b10101101, 0x04, 0x05] = .ok (.shr 0x04 0x05) [] := by decide

/-- The unimplemented opcodes of spec/95_test_vectors.md 2.10. -/
theorem test_decode_unimplemented :
    decode [0x00] = .rejected (.unimplementedInstruction 0x00) ∧
    decode [0x52, 0x00] = .rejected (.unimplementedInstruction 0x52) ∧
    decode [0xC0, 0x00, 0x00] = .rejected (.unimplementedInstruction 0xC0) := by decide

/-- The table's numbering of bits: the second byte is bits 15-8, the third bits 23-16. -/
theorem test_decodeTableWord : decodeTableWord 24 0xE00382 = some (.ldi 0x03 0xE0) := by decide

/-- A row shorter than its instruction: operand bytes of zeros. -/
theorem test_decodeTableWord_short : decodeTableWord 8 0xA3 = some (.div 0x00 0x00) := by decide

theorem test_withFetchWord :
    (nextState (step (State.reset.withFetchWord 24 0xE00382))).map (fun t => (t.reg .r3, t.pc, t.ir)) =
      some (0xE0, 0x03, 0x82) := by decide

/-! ### One step of each instruction (spec/95_test_vectors.md, part 2) -/

/-- R0 and R1 at given values, the PC at 0x10, everything else as after reset. -/
def regs2 (p q : Byte) : State := ((State.reset.setReg .r0 p).setReg .r1 q).setPc 0x10

/-- What an instruction leaves in R0, R1, FL and the PC. -/
def result (i : Instr) (s : State) : Option (Byte × Byte × BitVec 3 × Byte) :=
  (nextState (exec i s)).map (fun t => (t.reg .r0, t.reg .r1, t.fl, t.pc))

/-- A one-operand instruction's register, PC and SP after it. -/
def result1 (i : Instr) (r : Reg) (s : State) : Option (Byte × Byte × Byte) :=
  (nextState (exec i s)).map (fun t => (t.reg r, t.pc, t.reg .r7))

-- 2.1
theorem test_add_wraps : result (.add 0x00 0x01) (regs2 0xFF 0x02) = some (0x01, 0x02, 0b000, 0x13) := by decide
theorem test_add_same : result (.add 0x00 0x00) (regs2 0x81 0x00) = some (0x02, 0x00, 0b000, 0x13) := by decide
theorem test_sub_borrows : result (.sub 0x00 0x01) (regs2 0x03 0x05) = some (0xFE, 0x05, 0b000, 0x13) := by decide
theorem test_sub_same : result (.sub 0x00 0x00) (regs2 0x5A 0x00) = some (0x00, 0x00, 0b000, 0x13) := by decide
theorem test_mul_low_byte : result (.mul 0x00 0x01) (regs2 0xFF 0xFF) = some (0x01, 0xFF, 0b000, 0x13) := by decide
theorem test_mul_product_0x100 : result (.mul 0x00 0x01) (regs2 0x10 0x10) = some (0x00, 0x10, 0b000, 0x13) := by decide
theorem test_div_unsigned : result (.div 0x00 0x01) (regs2 0xC8 0x10) = some (0x0C, 0x10, 0b000, 0x13) := by decide
theorem test_mod_unsigned : result (.mod 0x00 0x01) (regs2 0xC8 0x10) = some (0x08, 0x10, 0b000, 0x13) := by decide
-- 2.1 and T7: the faults of DIV and MOD
theorem test_div_by_zero :
    (nextState (exec (.div 0x00 0x01) (regs2 0x0A 0x00))).map (fun t => (t.status, t.halted, t.reg .r0, t.pc)) =
      some (.fault (.divisionByZero .div 0x10), true, 0x0A, 0x10) := by decide
theorem test_mod_zero_by_zero :
    (nextState (exec (.mod 0x00 0x01) (regs2 0x00 0x00))).map (fun t => (t.status, t.halted, t.reg .r0, t.pc)) =
      some (.fault (.divisionByZero .mod 0x10), true, 0x00, 0x10) := by decide
-- 2.2
theorem test_and : result (.and 0x00 0x01) (regs2 0xCA 0xA6) = some (0x82, 0xA6, 0b000, 0x13) := by decide
theorem test_or : result (.or 0x00 0x01) (regs2 0xCA 0xA6) = some (0xEE, 0xA6, 0b000, 0x13) := by decide
theorem test_xor : result (.xor 0x00 0x01) (regs2 0xCA 0xA6) = some (0x6C, 0xA6, 0b000, 0x13) := by decide
theorem test_xor_same : result (.xor 0x00 0x00) (regs2 0x5A 0x00) = some (0x00, 0x00, 0b000, 0x13) := by decide
theorem test_not : result (.not 0x00) (regs2 0xA5 0x00) = some (0x5A, 0x00, 0b000, 0x12) := by decide
-- 2.3
theorem test_shl_whole_count : result (.shl 0x00 0x01) (regs2 0xFF 0x08) = some (0x00, 0x08, 0b000, 0x13) := by decide
theorem test_shl_same_register : result (.shl 0x00 0x00) (regs2 0x03 0x00) = some (0x18, 0x00, 0b000, 0x13) := by decide
theorem test_shr_zero_fill : result (.shr 0x00 0x01) (regs2 0xB6 0x03) = some (0x16, 0x03, 0b000, 0x13) := by decide
theorem test_shr_sourceAnd :
    result (.shr 0x00 0x01) { regs2 0xB6 0x03 with params := { shiftSemantics := .sourceAnd, pollRate := 60 } } =
      some (0x02, 0x03, 0b000, 0x13) := by decide
-- 2.4
theorem test_cmp_unsigned : result (.cmp 0x00 0x01) (regs2 0x00 0xFF) = some (0x00, 0xFF, 0b100, 0x13) := by decide
theorem test_cmp_greater_replaces :
    result (.cmp 0x00 0x01) ((regs2 0x80 0x7F).setFl 0b101) = some (0x80, 0x7F, 0b010, 0x13) := by decide

/-- The PC after each of the seven jumps on R2 = 0x30 at 0x10 (the rows of 2.4: JMP, JEQ, JNE, JGT, JLT, JLE, JGE). -/
def jumps (fl : BitVec 3) : List (Option Byte) :=
  [Instr.jmp 0x02, .jeq 0x02, .jne 0x02, .jgt 0x02, .jlt 0x02, .jle 0x02, .jge 0x02].map fun i =>
    (nextState (exec i (((regs2 0x00 0x00).setReg .r2 0x30).setFl fl))).map (fun t => t.pc)

theorem test_jumps_equal :
    jumps 0b001 = [some 0x30, some 0x30, some 0x12, some 0x12, some 0x12, some 0x30, some 0x30] := by decide
theorem test_jumps_less :
    jumps 0b100 = [some 0x30, some 0x12, some 0x30, some 0x12, some 0x30, some 0x30, some 0x12] := by decide
theorem test_jumps_greater :
    jumps 0b010 = [some 0x30, some 0x12, some 0x30, some 0x30, some 0x12, some 0x12, some 0x30] := by decide
theorem test_jumps_less_and_greater :
    jumps 0b110 = [some 0x30, some 0x12, some 0x30, some 0x30, some 0x30, some 0x30, some 0x30] := by decide
-- 2.10: a jump that is not taken still checks its operand
theorem test_jne_not_taken_checks :
    (nextState (exec (.jne 0x0A) ((regs2 0x00 0x00).setFl 0b001))).map (fun t => (t.status, t.pc)) =
      some (.fault (.invalidRegister 0x00 0x10 0x0A), 0x10) := by decide
-- 2.5
theorem test_inc_wraps : result (.inc 0x00) (regs2 0xFF 0x00) = some (0x00, 0x00, 0b000, 0x12) := by decide
theorem test_dec_wraps : result (.dec 0x00) (regs2 0x00 0x00) = some (0xFF, 0x00, 0b000, 0x12) := by decide
-- 2.6
theorem test_ldi_sp : result1 (.ldi 0x07 0xE0) .r7 (regs2 0x00 0x00) = some (0xE0, 0x13, 0xE0) := by decide
theorem test_ld_same_register :
    result1 (.ld 0x03 0x03) .r3 (((regs2 0x00 0x00).setReg .r3 0xE0).writeMem 0xE0 0x03) = some (0x03, 0x13, 0xF4) := by decide
theorem test_st_address_first :
    (nextState (exec (.st 0x03 0x00) ((regs2 0x03 0x00).setReg .r3 0xE0))).map (fun t => (t.readMem 0xE0, t.readMem 0x03)) =
      some (0x03, 0x00) := by decide
theorem test_st_same_register :
    (nextState (exec (.st 0x03 0x03) ((regs2 0x03 0x00).setReg .r3 0xE0))).map (fun t => (t.readMem 0xE0, t.pc)) =
      some (0xE0, 0x13) := by decide
-- 2.7
theorem test_push_wraps :
    (nextState (exec (.push 0x00) ((regs2 0x11 0x00).setReg .r7 0x00))).map (fun t => (t.readMem 0xFF, t.reg .r7)) =
      some (0x11, 0xFF) := by decide
theorem test_push_sp :
    (nextState (exec (.push 0x07) (regs2 0x00 0x00))).map (fun t => (t.readMem 0xF3, t.reg .r7)) = some (0xF4, 0xF3) := by decide
theorem test_pop_wraps :
    result1 (.pop 0x01) .r1 (((regs2 0x00 0x00).setReg .r7 0xFF).writeMem 0xFF 0x11) = some (0x11, 0x12, 0x00) := by decide
theorem test_pop_sp :
    result1 (.pop 0x07) .r7 (((regs2 0x00 0x00).setReg .r7 0xF3).writeMem 0xF3 0x80) = some (0x80, 0x12, 0x80) := by decide
theorem test_call_wraps :
    (nextState (exec (.call 0x01) ((regs2 0x00 0x10).setPc 0xFE))).map (fun t => (t.readMem 0xF3, t.pc, t.reg .r7)) =
      some (0x00, 0x10, 0xF3) := by decide
theorem test_call_sp :
    (nextState (exec (.call 0x07) (((regs2 0x00 0x00).setReg .r7 0x40).setPc 0x06))).map
      (fun t => (t.readMem 0x3F, t.pc, t.reg .r7)) = some (0x08, 0x40, 0x3F) := by decide
theorem test_ret :
    result1 .ret .r0 (((regs2 0x00 0x00).setReg .r7 0xF3).writeMem 0xF3 0x08) = some (0x00, 0x08, 0xF4) := by decide

/-- The frame of the IRET rows of 2.7, its FL byte FD. -/
def irFrame : State :=
  { (((regs2 0x00 0x00).setReg .r7 0xEB).setReg .r6 0x01) with
    ie := false, mem := Memory.writeAll [] 0xEB [0x00, 0x04, 0x00, 0x00, 0x00, 0xFA, 0x07, 0xFD, 0x12] }

theorem test_iret_registers :
    (nextState (exec .iret irFrame)).map (fun t => (t.reg .r6, t.reg .r5, t.reg .r1, t.reg .r0, t.reg .r7)) =
      some (0x00, 0x04, 0xFA, 0x07, 0xF4) := by decide
theorem test_iret_control :
    (nextState (exec .iret irFrame)).map (fun t => (t.fl, t.pc, t.ie)) = some (0b101, 0x12, true) := by decide
-- 2.8
theorem test_prn : (nextState (exec (.prn 0x00) (regs2 0xFF 0x00))).map (fun t => t.out) = some [.num 0xFF] := by decide
theorem test_pra : (nextState (exec (.pra 0x00) (regs2 0x41 0x00))).map (fun t => t.out) = some [.char 0x41] := by decide
theorem test_hlt :
    (nextState (exec .hlt ((regs2 0x00 0x00).setPc 0x1B))).map (fun t => (t.halted, t.status, t.pc)) =
      some (true, .halt, 0x1C) := by decide

/-! ### The source, the interrupt check and EF (spec/95_test_vectors.md 2.9) -/

/-- IM and IS at given values. -/
def irqs (im is : Byte) : State := (State.reset.setReg .r5 im).setReg .r6 is

theorem test_source_V1 : (sourceCycle (.key 0x61) (irqs 0x02 0x00)).reg .r6 = 0x02 := by decide
theorem test_source_V2 :
    (sourceCycle (.key 0x61) { irqs 0x02 0x00 with ie := false }).reg .r6 = 0x00 ∧
    (sourceCycle (.key 0x61) { irqs 0x02 0x00 with ie := false }).lastKey = 0x61 := by decide
theorem test_source_V6 : (sourceCycle (.key 0x62) { irqs 0x03 0x00 with tick := 59 }).reg .r6 = 0x03 := by decide
theorem test_source_V14 : (sourceCycle .failed { irqs 0x01 0x00 with tick := 59 }).reg .r6 = 0x01 := by decide

/-- V9: the start state, with a vector for interrupt 1; the engine's turn. -/
def v9 : State := { ((irqs 0x06 0x06).setPc 0x40).writeMem 0xF9 0x20 with phase := .eb, schedule := [.engine] }

theorem test_service_V9 :
    (actionEB v9).reg .r6 = 0x04 ∧ (actionEB v9).ie = false ∧ (actionEB v9).readMem 0xF3 = 0x40 ∧
    (actionEB v9).reg .r7 = 0xEB ∧ (actionEB v9).pc = 0x20 := by decide
theorem test_service_V10 : actionEB { v9 with ie := false } = { v9 with ie := false, phase := .ex } := by decide
theorem test_service_V11 : (actionEB (irqs 0x02 0x04)).pc = 0x00 ∧ (actionEB (irqs 0x02 0x04)).ie = true := by decide
theorem test_ef_V12 : (actionEF { State.reset with termReq := true }).status = .quit := by decide
theorem test_ef_V13 :
    (actionEF { State.reset with termReq := true, halted := true, status := .halt }).status = .halt := by decide

/-- Rule R75: an LDI whose three bytes stand at 0xFE, 0xFF and 0x00. -/
theorem test_fetch_wraps :
    (nextState (step
      { (State.reset.setPc 0xFE) with
        mem := [(0x00, 0x08), (0xFE, 0x82)]
        phase := .ex
        schedule := [.engine] })).map
      (fun t => (t.reg .r0, t.pc)) = some (0x08, 0x01) := by decide

/-! ### Witnesses: for every obligation with hypotheses, states and operands that meet them

`fetching nbits w` is the reset state with the word `w` at its PC and EX next. -/

def fetching (nbits w : Nat) : State := State.reset.withFetchWord nbits w

/-- A schedule with one turn. -/
def turn (u : Turn) (s : State) : State := { s with schedule := [u] }

theorem witness_UnimplementedOpcodeFaults :
    operandCount 0xC0 = 3 ∧ operandCount 0xFF = 3 ∧ opcodeRow (State.reset.readMem State.reset.pc) = none := by decide

theorem witness_RegisterOperandNamesRegister :
    regIdx 0x07 = some .r7 ∧ regIdx 0x08 = none ∧ isRegister 0x07 = true ∧ isRegister 0x08 = false := by decide

theorem witness_DecodeInvertsEncode :
    encode (.push 0x45) ++ [0x11] = encode (.push 0x45) ++ [0x11] ∧
    [Instr.ret, .hlt].flatMap encode = [Instr.ret, .hlt].flatMap encode := by decide

theorem witness_EncodeInvertsDecode : decode [0x13, 0x45] = .ok .iret [0x45] := by decide

theorem witness_AdvanceFollowsOpcodeBits :
    (Instr.mod 0x07 0x07).wellFormed = true ∧ (Instr.mod 0x07 0x07).dividesByZero State.reset = false ∧
    setsPc (Instr.mod 0x07 0x07).opcode = false ∧ (Instr.mod 0x07 0x07) ≠ .hlt := by decide

theorem witness_NothingElseFaults_unimplemented :
    ∃ t k, step (fetching 8 0x00) = .next t ∧ t.status = .fault k ∧ (fetching 8 0x00).status ≠ .fault k :=
  ⟨_, _, rfl, rfl, by decide⟩

theorem witness_NothingElseFaults_register :
    ∃ t k, step (fetching 16 0x0845) = .next t ∧ t.status = .fault k ∧ (fetching 16 0x0845).status ≠ .fault k :=
  ⟨_, _, rfl, rfl, by decide⟩

theorem witness_NothingElseFaults_zero :
    ∃ t k, step (fetching 24 0x0100A3) = .next t ∧ t.status = .fault k ∧ (fetching 24 0x0100A3).status ≠ .fault k :=
  ⟨_, _, rfl, rfl, by decide⟩

theorem witness_FaultLeavesMachineUnchanged :
    ∃ t k, State.reset.status = .running ∧ exec (.add 0x00 0x08) State.reset = .next t ∧ t.status = .fault k :=
  ⟨_, _, rfl, rfl, rfl⟩

theorem witness_FaultOrder : 7 < (0x08 : Byte).toNat ∧ 7 < (0xFF : Byte).toNat ∧ State.reset.reg .r1 = 0 := by decide

theorem witness_DivisionLaw : State.reset.reg .r7 ≠ 0 ∧ (regs2 0x0A 0x01).reg .r1 ≠ 0 ∧ (regs2 0x0A 0x00).reg .r1 = 0 := by
  decide

theorem witness_ShiftsInBothModes :
    State.reset.params.shiftSemantics = .intended ∧ 8 ≤ (0x08 : Byte).toNat ∧
    { State.reset with params := { shiftSemantics := .sourceAnd, pollRate := 60 } }.params.shiftSemantics = .sourceAnd := by
  decide

theorem witness_RejectsBadOperand :
    (Instr.pop 0x08).badOperand = some 0x08 ∧ (Instr.ldi 0xFF 0x00).badOperand = some 0xFF ∧
    (Instr.cmp 0x08 0x07).badOperand = some 0x08 ∧ (Instr.cmp 0x07 0x08).badOperand = some 0x08 := by decide

theorem witness_PopLoads : Reg.r6 ≠ .r7 := by decide

theorem witness_PushPopRoundTrip : Reg.r0 ≠ .r7 ∧ Reg.r6 ≠ .r7 := by decide

theorem witness_ManyPushesManyPops : (List.replicate 256 (0x2A : Byte)).length ≤ 256 :=
  List.length_replicate.le

theorem witness_CallReturnResumes :
    ∃ t u, exec (.call 0x01) (regs2 0x00 0x20) = .next t ∧ u.reg .r7 = t.reg .r7 ∧
      u.readMem (t.reg .r7) = t.readMem (t.reg .r7) ∧ u ≠ t :=
  ⟨_, (regs2 0x05 0x20).push 0x12, rfl, by decide, by decide, by decide⟩

theorem witness_HaltFinishesIteration :
    State.reset.status = .running ∧ { State.reset with phase := .ef }.phase = .ef ∧
    { State.reset with status := .quit }.status ≠ .running := by decide

/-- A machine that has left its loop, the source still live; the engine's turn. -/
def afterHalt : State := { State.reset with halted := true, status := .halt, schedule := [.engine] }

theorem witness_HaltFinishesIteration_after : ∃ t, afterHalt.leftLoop = true ∧ step afterHalt = .next t := ⟨_, rfl, rfl⟩

theorem witness_MemoryWritesCommute :
    Memory.wf [(5, 0x01)] ∧ 0 < 256 ∧ 255 < 256 ∧ 0 ≠ 255 := by decide

theorem witness_CanonicalMemoryIsUnique :
    Memory.wf [(0, 0x01), (255, 0x02)] ∧ Memory.wf (Memory.writeAll [] 0 [0x01]) ∧
    ∀ a, a < 256 → Memory.read [(0, 0x01)] a = Memory.read (Memory.writeAll [] 0 [0x01]) a :=
  ⟨by decide, by decide, fun _ _ => rfl⟩

theorem witness_StepRunsDecoded :
    (fetching 24 0x0100A0).mover = some .engine ∧ (fetching 24 0x0100A0).halted = false ∧ (fetching 24 0x0100A0).phase = .ex ∧
    decode [(fetching 24 0x0100A0).readMem 0x00, (fetching 24 0x0100A0).readMem 0x01, (fetching 24 0x0100A0).readMem 0x02] =
      .ok (.add 0x00 0x01) [] ∧ (fetching 24 0x0100A0).pc = 0x00 := by decide

/-- The engine done, the source live or not. -/
def engineOver (live : Bool) : State := { afterHalt with srcStop := true, srcLive := live }

theorem witness_StepInterleavesAgents :
    ((turn (.source (.key 0x61)) State.reset).schedule = [.source (.key 0x61)] ∧
      (turn (.source (.key 0x61)) State.reset).srcLive = true) ∧
    ((turn .engine State.reset).schedule = [.engine] ∧ (turn .engine State.reset).engineDone = false) ∧
    State.reset.schedule = [] ∧
    ((turn (.source .noKey) { State.reset with srcLive := false }).schedule = [.source .noKey] ∧
      (turn (.source .noKey) { State.reset with srcLive := false }).srcLive = false ∧
      (turn (.source .noKey) { State.reset with srcLive := false }).engineDone = false) ∧
    ((engineOver true).schedule = [.engine] ∧ (engineOver true).engineDone = true ∧ (engineOver true).srcLive = true) := by decide

theorem witness_KeyMirrorRefreshed : State.reset.phase = .ea ∧ State.reset.leftLoop = false := by decide

/-- Interrupt `i` alone pending and enabled, before EB. -/
def onlyPending (i : Fin 8) : State := { irqs (irqBit i) (irqBit i) with phase := .eb }

theorem witness_InterruptCheckServicesLowest :
    (v9.phase = .eb ∧ v9.halted = false ∧ { v9 with ie := false }.ie = false) ∧
    ((turn .engine { irqs 0x02 0x04 with phase := .eb }).reg .r6 &&& (irqs 0x02 0x04).reg .r5 = 0) ∧
    (∀ i : Fin 8, i = 0 ∨ i = 7 →
      (onlyPending i).phase = .eb ∧ (onlyPending i).halted = false ∧ (onlyPending i).ie = true ∧
      ((onlyPending i).reg .r6 &&& (onlyPending i).reg .r5).getLsbD i.val = true ∧
      (∀ j : Fin 8, j < i → ((onlyPending i).reg .r6 &&& (onlyPending i).reg .r5).getLsbD j.val = false)) ∧
    v9.reg .r6 &&& v9.reg .r5 ≠ 0 := by decide

theorem witness_ReturnUndoesService :
    ((v9.service 1).setReg .r0 0x55).reg .r7 = (v9.service 1).reg .r7 ∧
    ∀ a ∈ frameAddresses (v9.reg .r7), ((v9.service 1).setReg .r0 0x55).readMem a = (v9.service 1).readMem a := by decide

theorem witness_TerminationCheck :
    ({ State.reset with phase := .ef, termReq := true }.phase = .ef ∧
      { State.reset with phase := .ef, termReq := true }.termReq = true) ∧
    ({ State.reset with phase := .ef }.phase = .ef ∧ State.reset.termReq = false) ∧
    (∃ t, step (turn .engine { State.reset with termReq := true }) = .next t) ∧
    (∃ t, afterHalt.leftLoop = true ∧ step afterHalt = .next t) :=
  ⟨by decide, by decide, ⟨_, rfl⟩, ⟨_, rfl, rfl⟩⟩

theorem witness_PhaseOrder :
    State.reset.engineDone = false ∧ (engineOver true).engineDone = true ∧
    (afterHalt.leftLoop = true ∧ afterHalt.engineDone = false) ∧
    (∃ t, State.reset.leftLoop = false ∧ engineStep State.reset = .next t ∧ State.reset.phase = .ea) ∧
    (∃ t, v9.leftLoop = false ∧ engineStep v9 = .next t ∧ v9.phase = .eb) ∧
    (∃ t, (fetching 8 0x01).leftLoop = false ∧ engineStep (fetching 8 0x01) = .next t ∧ (fetching 8 0x01).phase = .ex ∧
      (fetching 8 0x01).status = .running) ∧
    (∃ t, { State.reset with phase := .ef }.leftLoop = false ∧ engineStep { State.reset with phase := .ef } = .next t) :=
  ⟨rfl, rfl, ⟨rfl, rfl⟩, ⟨_, rfl, rfl, rfl⟩, ⟨_, rfl, rfl, rfl⟩, ⟨_, rfl, rfl, rfl, rfl⟩, ⟨_, rfl, rfl⟩⟩

theorem witness_StopsOnlyWhenRunOver :
    ((engineOver false).engineDone = true ∧ (engineOver false).srcLive = false) ∧
    ¬ ((engineOver true).engineDone = true ∧ (engineOver true).srcLive = false) := by decide

theorem witness_KeyboardPart : State.reset.srcStop = false ∧ (∀ k, Poll.noKey ≠ .key k) ∧ (∀ k, Poll.quit ≠ .key k) :=
  ⟨rfl, by simp, by simp⟩

theorem witness_TimerPart :
    State.reset.srcStop = false ∧ State.reset.tick < State.reset.params.pollRate ∧
    { State.reset with tick := 59 }.tick < State.reset.params.pollRate := by decide

theorem witness_QuitStopAndFailedPoll :
    State.reset.srcStop = false ∧ Poll.failed ≠ .quit ∧ (engineOver true).srcStop = true := by decide

theorem witness_SourceReach :
    2 ≤ 7 ∧ (irqs 0x00 0x01).reg .r6 = 0x01 ∧ (regs2 0x01 0x02) ≠ State.reset ∧ (regs2 0x01 0x02).ie = State.reset.ie ∧
    (regs2 0x01 0x02).reg .r5 = State.reset.reg .r5 ∧ (regs2 0x01 0x02).srcStop = State.reset.srcStop ∧
    (regs2 0x01 0x02).tick = State.reset.tick ∧ (regs2 0x01 0x02).params = State.reset.params := by decide

theorem witness_HiddenStateNotRead : v9.phase ≠ .ea ∧ afterHalt.leftLoop = true ∧ (Instr.st 0x07 0x00).wellFormed = true := by decide

theorem witness_FlagWriters_cmp : ∃ t, step (fetching 24 0x0100A7) = .next t ∧ t.fl ≠ (fetching 24 0x0100A7).fl :=
  ⟨_, rfl, by decide⟩

/-- IRET fetched over a frame that holds FL = 101. -/
def fetchingIret : State := irFrame.withFetchWord 8 0x13

theorem witness_FlagWriters_iret : ∃ t, step fetchingIret = .next t ∧ t.fl ≠ fetchingIret.fl := ⟨_, rfl, by decide⟩

theorem witness_InterruptEnableWriters :
    (∃ t, step v9 = .next t ∧ v9.ie = true ∧ t.ie = false) ∧
    (∃ t, step fetchingIret = .next t ∧ fetchingIret.ie = false ∧ t.ie = true) :=
  ⟨⟨_, rfl, rfl, by decide⟩, ⟨_, rfl, rfl, by decide⟩⟩

theorem witness_ProgramCounterWriters :
    (∃ t, step v9 = .next t ∧ t.pc ≠ v9.pc) ∧ (∃ t, step fetchingIret = .next t ∧ t.pc ≠ fetchingIret.pc) :=
  ⟨⟨_, rfl, by decide⟩, ⟨_, rfl, by decide⟩⟩

theorem witness_HaltAndStatusFinal :
    (∃ t, step afterHalt = .next t ∧ afterHalt.halted = true ∧ afterHalt.status ≠ .running) ∧
    (∃ t, step (fetching 8 0x01) = .next t ∧ (fetching 8 0x01).halted = false ∧ t.halted = true ∧
      t.status ≠ (fetching 8 0x01).status) :=
  ⟨⟨_, rfl, rfl, by decide⟩, ⟨_, rfl, rfl, by decide, by decide⟩⟩

theorem witness_OutputAppends :
    (∃ t, step (fetching 16 0x0047) = .next t ∧ t.out ≠ (fetching 16 0x0047).out) ∧
    (∃ t, step (fetching 16 0x0048) = .next t ∧ t.out ≠ (fetching 16 0x0048).out) :=
  ⟨⟨_, rfl, by decide⟩, ⟨_, rfl, by decide⟩⟩

/-- ST R7, R7: the byte at 0xF4 becomes 0xF4. -/
def fetchingSt : State := fetching 24 0x070784

theorem witness_MemoryWriters :
    (∃ t, step (turn .engine { State.reset with lastKey := 0x61 }) = .next t ∧ t.readMem 0xF4 ≠ State.reset.readMem 0xF4) ∧
    (∃ t, step v9 = .next t ∧ t.readMem 0xF3 ≠ v9.readMem 0xF3) ∧
    (∃ t, step fetchingSt = .next t ∧ t.readMem 0xF4 ≠ fetchingSt.readMem 0xF4) :=
  ⟨⟨_, rfl, by decide⟩, ⟨_, rfl, by decide⟩, ⟨_, rfl, by decide⟩⟩

/-- A running machine, a halted one before its last EF, and one with a termination request meet the invariant, and step. -/
theorem witness_InvariantKept :
    (∃ t, Consistent v9 ∧ step v9 = .next t) ∧
    (∃ t, Consistent { afterHalt with phase := .ef } ∧ step { afterHalt with phase := .ef } = .next t) ∧
    (∃ t, Consistent { v9 with termReq := true, srcLive := false } ∧
      step { v9 with termReq := true, srcLive := false } = .next t) :=
  ⟨⟨_, by constructor <;> decide, rfl⟩, ⟨_, by constructor <;> decide, rfl⟩, ⟨_, by constructor <;> decide, rfl⟩⟩

theorem witness_LoadAndRun :
    ([] : List Byte).length ≤ 256 ∧ (List.replicate 256 (0x01 : Byte)).length ≤ 256 ∧
    256 < (List.replicate 257 (0x01 : Byte)).length ∧ afterHalt.halted = true ∧ State.reset.halted = false :=
  ⟨by decide, List.length_replicate.le, by rw [List.length_replicate]; decide, rfl, rfl⟩

/-- Both clauses in one state, and in states whose other agent has no move left. -/
theorem witness_BothAgentsWeaklyFair :
    (State.reset.srcLive = true ∧ State.reset.engineDone = false) ∧
    ((engineOver true).srcLive = true ∧ (engineOver true).engineDone = true) ∧
    ({ State.reset with srcLive := false }.srcLive = false ∧ { State.reset with srcLive := false }.engineDone = false) := by
  decide

end Sys2Proof.Tests
end

section
/-! The writers of the PC (rule R36), and of `halted` and the terminal status (rules R41, R46). -/

namespace Sys2Proof.Machine

/-- Settles O51: of the cases of a step, EX of an implemented opcode and EB with a service alone write the PC. -/
theorem programCounterWriters : Obligations.ProgramCounterWriters := by
  intro s t h changed
  cases step_cases h with
  | ex i _ m _ p fetched _ => exact ⟨m, .inl ⟨p, by rw [fetched]; rfl⟩⟩
  | ebService i m _ p serviced => exact ⟨m, .inr ⟨p, by rw [serviced]; rfl⟩⟩
  | source => exact absurd (sourceCycle_pc _ _) changed
  | _ => exact absurd rfl changed

/-- `halted` and `status` are kept together, or written together: the machine is halted, with a terminal status unless one
stood already (rules R46, R137). -/
def KeepsOrHalts (s t : State) : Prop :=
  (t.halted = s.halted ∧ t.status = s.status) ∨
    ∃ r, r ≠ .running ∧ t.halted = true ∧ t.status = s.status.settle r

/-- HLT and the fatal errors alone write `halted` and `status`. -/
theorem exec_keepsOrHalts {i : Instr} {s t : State} (h : exec i s = .next t) : KeepsOrHalts s t := by
  cases exec_effect h with
  | fault k => exact .inr ⟨.fault k, by simp, rfl, rfl⟩
  | halt => exact .inr ⟨.halt, by simp, rfl, rfl⟩
  | _ => exact .inl (by simp)

/-- EX, and EF on a termination request, alone write `halted` and `status`. -/
theorem step_keepsOrHalts {s t : State} (h : step s = .next t) : KeepsOrHalts s t := by
  cases step_cases h with
  | ex i _ _ _ _ _ run =>
    have kept : KeepsOrHalts s.takeTurn.fetchOpcode t := exec_keepsOrHalts run
    exact kept
  | exUnimplemented => exact .inr ⟨.fault _, by simp, rfl, rfl⟩
  | efQuit => exact .inr ⟨.quit, by simp, rfl, rfl⟩
  | source | ebService => exact .inl (by simp)
  | stopSource | ea | ebIdle | efOn => exact .inl ⟨rfl, rfl⟩

/-- Settles O52: a step keeps `halted` and `status`, or halts on a status that settles. -/
theorem haltAndStatusFinal : Obligations.HaltAndStatusFinal := by
  refine ⟨rfl, fun s t h => ?_⟩
  rcases step_keepsOrHalts h with ⟨halted, status⟩ | ⟨r, terminal, halted, status⟩
  · exact ⟨halted.trans, fun _ => status, fun changed => absurd status changed,
      fun running halts => absurd (running.symm.trans (halted.symm.trans halts)) Bool.false_ne_true⟩
  · exact ⟨fun _ => halted, fun stands => status.trans (RunStatus.settle_of_ne r stands), fun _ => halted,
      fun _ _ => status ▸ RunStatus.settle_ne_running terminal⟩

end Sys2Proof.Machine
end

section
/-! The unimplemented opcodes (rule R105): which bytes they are, how many, and what EX does on one. -/

namespace Sys2Proof

theorem opcodeRow_eq_none {op : Byte} : opcodeRow op = none ↔ ∀ r ∈ opcodeMap, r.opcode ≠ op := by
  simp [opcodeRow]

theorem opcodeRow_isSome {op : Byte} : (opcodeRow op).isSome ↔ ∃ r ∈ opcodeMap, r.opcode = op := by
  simp [opcodeRow]

/-- The longest formats have two operand bytes (rule R103). -/
theorem Form.operands_le_two (f : Form) : f.operands ≤ 2 := by
  cases f <;> simp [Form.operands]

/-- No format has three operand bytes, so no opcode whose bits 7-6 say three is in the map (rules R103, R105). -/
theorem opcodeRow_of_operandCount_eq_three {op : Byte} (three : operandCount op = 3) : opcodeRow op = none := by
  refine opcodeRow_eq_none.mpr fun r mem same => ?_
  have le : operandCount r.opcode ≤ 2 := opcodeMap_operands r mem ▸ r.form.operands_le_two
  rw [same, three] at le
  contradiction

/-- The implemented byte values are the opcodes of the map's rows, each once. -/
theorem implemented_perm :
    ((List.range 256).filter (fun n => (opcodeRow (wrap8 n)).isSome)).Perm (opcodeMap.map (·.opcode.toNat)) := by
  have distinct : (opcodeMap.map (·.opcode.toNat)).Nodup :=
    List.pairwise_map.mpr (opcodeMap_distinct.imp fun ne eq => ne (BitVec.eq_of_toNat_eq eq))
  refine (List.perm_ext_iff_of_nodup (List.nodup_range.filter _) distinct).mpr fun n => ?_
  simp only [List.mem_filter, List.mem_range, List.mem_map, opcodeRow_isSome]
  constructor
  · rintro ⟨small, r, mem, same⟩
    exact ⟨r, mem, by rw [same]; exact Nat.mod_eq_of_lt small⟩
  · rintro ⟨r, mem, rfl⟩
    exact ⟨r.opcode.isLt, r, mem, by simp [wrap8]⟩

/-- Of the 256 byte values, the map's 32 rows leave 224. -/
theorem unimplemented_length : ((List.range 256).filter (fun n => (opcodeRow (wrap8 n)).isNone)).length = 224 := by
  have rows : opcodeMap.length = 32 := rfl
  have implemented := implemented_perm.length_eq
  have all := List.length_eq_length_filter_add (l := List.range 256) (fun n => (opcodeRow (wrap8 n)).isSome)
  simp only [Option.not_isSome, List.length_range, List.length_map] at implemented all
  omega

end Sys2Proof

namespace Sys2Proof.Machine

theorem State.fetched_of_unimplemented {s : State} (unimplemented : opcodeRow (s.readMem s.pc) = none) :
    s.fetched = none := by
  simp [State.fetched, decodeOp, unimplemented]

/-- EX on an unimplemented opcode is IR's write and the fatal error, which writes the phase again (rules R105, R37). -/
theorem actionEX_of_unimplemented {s : State} (unimplemented : opcodeRow (s.readMem s.pc) = none) :
    actionEX s = .next (State.raiseFault { s with ir := s.readMem s.pc }
      (.unimplementedInstruction (s.readMem s.pc) s.pc)) := by
  rw [actionEX, State.fetched_of_unimplemented unimplemented]
  rfl

/-- Settles O3: the map's 32 rows have distinct opcodes and at most two operand bytes, and EX on a byte without a row is a
raised fatal error. -/
theorem unimplementedOpcodeFaults : Obligations.UnimplementedOpcodeFaults :=
  ⟨unimplemented_length, by decide, by decide, fun _ => opcodeRow_of_operandCount_eq_three,
    fun _ unimplemented => ⟨_, actionEX_of_unimplemented unimplemented, faultStop_raiseFault _ _⟩⟩

end Sys2Proof.Machine
end

section
/-! The engine's loop (rules R130-R136): the engine's move at EA, EB and EF inside the loop, which interrupt EB services, and
what a termination request does. -/

namespace Sys2Proof.Machine

/-- A machine that has not halted is inside the loop (rule R130). -/
theorem State.leftLoop_of_running {s : State} (running : s.halted = false) : s.leftLoop = false := by
  simp [State.leftLoop, running]

/-- Before EF the engine is inside the loop, halted or not (rule R137). -/
theorem State.leftLoop_of_ef {s : State} (p : s.phase = .ef) : s.leftLoop = false := by
  simp [State.leftLoop, p]

theorem engineStep_of_ea {s : State} (inLoop : s.leftLoop = false) (p : s.phase = .ea) :
    engineStep s = .next (actionEA s) := by
  simp [engineStep, inLoop, p]

theorem engineStep_of_eb {s : State} (inLoop : s.leftLoop = false) (p : s.phase = .eb) :
    engineStep s = .next (actionEB s) := by
  simp [engineStep, inLoop, p]

theorem engineStep_of_ef {s : State} (p : s.phase = .ef) : engineStep s = .next (actionEF s) := by
  simp [engineStep, State.leftLoop_of_ef p, p]

/-! ### EA -/

/-- Settles O37: EA is the write of `last_key` to the key mirror and the move to EB. -/
theorem keyMirrorRefreshed : Obligations.KeyMirrorRefreshed := by
  refine ⟨rfl, fun s p inLoop => ⟨actionEA s, engineStep_of_ea inLoop p, ?mirrored, fun a other => ?kept,
    rfl, fun _ _ => rfl, rfl, rfl, rfl, rfl, rfl, rfl, rfl, ⟨rfl, rfl, rfl, rfl, rfl, rfl, rfl, rfl⟩⟩⟩
  case mirrored => exact State.readMem_writeMem_self s keyMirror s.lastKey
  case kept => exact State.readMem_writeMem_ne s keyMirror s.lastKey (List.ne_of_not_mem_cons other)

/-! ### EB -/

theorem actionEB_of_none {s : State} (idle : s.serviced = none) : actionEB s = { s with phase := .ex } := by
  simp [actionEB, idle]

theorem actionEB_of_some {s : State} {i : Fin 8} (serviced : s.serviced = some i) :
    actionEB s = { s.service i with phase := .ex } := by
  simp [actionEB, serviced]

theorem lowestSet_eq_find? (pend : Byte) : lowestSet pend = Fin.find? (fun j : Fin 8 => pend.getLsbD j.val) :=
  Fin.find?_eq_find?_finRange.symm

/-- `lowestSet` is the set bit below which none is set (rule R310). -/
theorem lowestSet_eq_some_iff {pend : Byte} {i : Fin 8} :
    lowestSet pend = some i ↔ pend.getLsbD i.val = true ∧ ∀ j : Fin 8, j < i → pend.getLsbD j.val = false := by
  rw [lowestSet_eq_find?, Fin.find?_eq_some_iff]

/-- A byte has no lowest set bit exactly when it is 0. -/
theorem lowestSet_eq_none_iff {pend : Byte} : lowestSet pend = none ↔ pend = 0 := by
  rw [lowestSet_eq_find?, Fin.find?_eq_none_iff]
  constructor
  · intro clear
    refine BitVec.eq_of_getLsbD_eq fun k inByte => ?_
    simpa using clear ⟨k, inByte⟩
  · rintro rfl
    simp

theorem State.serviced_eq_none_iff {s : State} : s.serviced = none ↔ s.pending = 0 ∨ s.ie = false := by
  cases ie : s.ie <;> simp [State.serviced, ie, lowestSet_eq_none_iff]

theorem State.serviced_of_enabled {s : State} (enabled : s.ie = true) : s.serviced = lowestSet s.pending :=
  if_pos enabled

/-- Settles O38: EB does what `serviced` says, which is the lowest set bit of `IS & IM` while `ie` is true. -/
theorem interruptCheckServicesLowest : Obligations.InterruptCheckServicesLowest := by
  refine ⟨fun s p running idle => ?_, fun s i p running enabled isSet lowest => ⟨?_, State.service_ie s i⟩,
    fun s pends => ?_⟩
  · rw [engineStep_of_eb (State.leftLoop_of_running running) p,
      actionEB_of_none (State.serviced_eq_none_iff.mpr idle)]
  · have serviced : s.serviced = some i :=
      (State.serviced_of_enabled enabled).trans (lowestSet_eq_some_iff.mpr ⟨isSet, lowest⟩)
    rw [engineStep_of_eb (State.leftLoop_of_running running) p, actionEB_of_some serviced]
  · obtain ⟨i, found⟩ := Option.ne_none_iff_exists'.mp (mt lowestSet_eq_none_iff.mp pends)
    exact ⟨i, lowestSet_eq_some_iff.mp found⟩

/-! ### EF -/

theorem actionEF_of_request {s : State} (request : s.termReq = true) :
    actionEF s = { s with halted := true, status := s.status.settle .quit, phase := .ea } :=
  if_pos request

theorem actionEF_of_noRequest {s : State} (noRequest : s.termReq = false) : actionEF s = { s with phase := .ea } := by
  simp [actionEF, noRequest]

/-- A run without a terminal status takes the new one (rule R46). -/
theorem RunStatus.settle_of_running {old : RunStatus} (new : RunStatus) (running : old = .running) :
    old.settle new = new :=
  if_pos running

/-- No step takes a termination request back: the engine does not write it, the source only sets it (rules R43, R323). -/
theorem step_keeps_termReq {s t : State} (h : step s = .next t) (request : s.termReq = true) : t.termReq = true := by
  cases step_cases h with
  | source p => simp [sourceCycle_termReq, request]
  | ebService i => exact (State.service_termReq s.takeTurn i).trans request
  | ex _ _ _ _ _ _ run => exact (exec_sameSource run).termReq.trans request
  | _ => exact request

/-- After the loop a step is a source cycle or the engine's last move (rule R130). -/
theorem step_of_leftLoop {s t : State} (left : s.leftLoop = true) (h : step s = .next t) :
    (∃ p, t = sourceCycle p s.takeTurn) ∨ t = { s.takeTurn with srcStop := true } := by
  cases step_cases h with
  | source p => exact .inl ⟨p, rfl⟩
  | stopSource => exact .inr rfl
  | ea _ inLoop | ebIdle _ inLoop | ebService _ _ inLoop | exUnimplemented _ inLoop | ex _ _ _ inLoop | efQuit _ inLoop
  | efOn _ inLoop => exact absurd (inLoop.symm.trans left) Bool.false_ne_true

/-- Settles O41: EF by the termination request, which every step keeps; after the loop no step halts or settles. -/
theorem terminationCheck : Obligations.TerminationCheck := by
  refine ⟨fun s p request => ?_, fun s p noRequest => ?_, fun _ _ => step_keeps_termReq, fun s t left h => ?_⟩
  · exact ⟨_, (engineStep_of_ef p).trans (congrArg _ (actionEF_of_request request)), rfl, rfl,
      RunStatus.settle_of_running .quit, RunStatus.settle_of_ne .quit,
      fun _ _ => rfl, fun _ => rfl, rfl, rfl, rfl, rfl, rfl, ⟨rfl, rfl, rfl, rfl, rfl, rfl, rfl, rfl⟩⟩
  · rw [engineStep_of_ef p, actionEF_of_noRequest noRequest]
  · obtain ⟨p, rfl⟩ | rfl := step_of_leftLoop left h
    · exact ⟨sourceCycle_halted p s.takeTurn, sourceCycle_status p s.takeTurn⟩
    · exact ⟨rfl, rfl⟩

end Sys2Proof.Machine
end

section
/-! The ALU (spec/41_alu.md), INC and DEC (spec/44_incdec.md): decoding, operand faults and the frame that the rules of
these instructions share, then each instruction's result. -/

namespace Sys2Proof

/-! ### Decoding by the row of the opcode -/

/-- The operand count of an implemented opcode is that of its row's format (rules R102, R104). -/
theorem operandCount_of_row {op : Byte} {form : Form} (row : opcodeRow op = some ⟨op, form⟩) :
    operandCount op = form.operands :=
  (opcodeMap_operands _ (opcodeRow_some row).1).symm

/-- An opcode of the format F1R decodes with one operand byte (rule R103). -/
theorem decode_of_f1R {op : Byte} {mk : Byte → Instr} (row : opcodeRow op = some ⟨op, .f1R mk⟩) (ra : Byte) :
    decode [op, ra] = .ok (mk ra) [] := by
  simp [decode, decodeOp, row, operandCount_of_row row, Form.build, Form.operands]

/-- An opcode of the format F2RR decodes with two operand bytes (rule R103). -/
theorem decode_of_f2RR {op : Byte} {mk : Byte → Byte → Instr} (row : opcodeRow op = some ⟨op, .f2RR mk⟩) (ra rb : Byte) :
    decode [op, ra, rb] = .ok (mk ra rb) [] := by
  simp [decode, decodeOp, row, operandCount_of_row row, Form.build, Form.operands]

/-! ### Results as residues -/

/-- Byte addition is the sum of the naturals modulo 256 (rules R11, R151). -/
theorem wrap8_toNat_add (p q : Byte) : wrap8 (p.toNat + q.toNat) = p + q := by
  rw [wrap8, BitVec.ofNat_add, BitVec.ofNat_toNat, BitVec.ofNat_toNat, BitVec.setWidth_eq, BitVec.setWidth_eq]

/-- Byte multiplication is the product of the naturals modulo 256 (rules R11, R151). -/
theorem wrap8_toNat_mul (p q : Byte) : wrap8 (p.toNat * q.toNat) = p * q := by
  rw [wrap8, BitVec.ofNat_mul, BitVec.ofNat_toNat, BitVec.ofNat_toNat, BitVec.setWidth_eq, BitVec.setWidth_eq]

/-- Byte subtraction is the integer difference modulo 256 (rules R11, R151). -/
theorem ofInt_toNat_sub (p q : Byte) : BitVec.ofInt 8 ((p.toNat : Int) - (q.toNat : Int)) = p - q := by
  refine BitVec.eq_of_toNat_eq ?_
  rw [BitVec.toNat_ofInt, BitVec.toNat_sub]
  omega

end Sys2Proof

namespace Sys2Proof.Machine

/-! ### Operand faults -/

/-- An instruction that checks one register operand rejects a byte above 7 (rule R108). -/
theorem rejectsBadOperand_of_withReg {i : Instr} {ra : Byte} (operands : i.registerOperands = [ra])
    (run : ∀ s, ∃ k, exec i s = .next (withReg s ra k)) : RejectsBadOperand i := by
  intro s b bad
  obtain ⟨k, run⟩ := run s
  obtain ⟨first, rfl⟩ : isRegister ra = false ∧ ra = b := by
    simpa [Instr.badOperand, operands] using bad
  exact ⟨_, run, withReg_bad s first k ▸ faultStop_invalidRegister s ra⟩

/-- An instruction that checks two register operands rejects the first byte above 7 (rules R108, R305). -/
theorem rejectsBadOperand_of_withRegs {i : Instr} {ra rb : Byte} (operands : i.registerOperands = [ra, rb])
    (run : ∀ s, ∃ k, exec i s = .next (withRegs s ra rb k)) : RejectsBadOperand i := by
  intro s b bad
  obtain ⟨k, run⟩ := run s
  refine ⟨_, run, ?_⟩
  cases first : isRegister ra with
  | false =>
    obtain rfl : ra = b := by simpa [Instr.badOperand, operands, first] using bad
    exact withRegs_bad_first s rb first k ▸ faultStop_invalidRegister s ra
  | true =>
    obtain ⟨second, rfl⟩ : isRegister rb = false ∧ rb = b := by
      simpa [Instr.badOperand, operands, first] using bad
    obtain ⟨a, rfl⟩ := exists_operand first
    exact withRegs_bad_second s a second k ▸ faultStop_invalidRegister s rb

/-! ### The frame, and the two common forms -/

/-- A register's write and the PC advance change that register and the PC alone (rules R135, R150). -/
theorem writesOnly_setReg_advance (s : State) (a : Reg) (v : Byte) (n : Nat) :
    WritesOnly a v (wrap8 (n + 1)) s ((s.setReg a v).advance n) where
  value := State.reg_setReg_self s a v
  pc := rfl
  regs _ other := State.reg_setReg_ne s v (List.ne_of_not_mem_cons other)
  mem _ := rfl
  fl := rfl
  out := rfl
  control := ⟨rfl, rfl, rfl, rfl, rfl, ⟨rfl, rfl, rfl, rfl, rfl, rfl, rfl, rfl⟩⟩

theorem aluUnary_operand (f : Byte → Byte) (a : Reg) (s : State) :
    aluUnary f a.operand s = (s.setReg a (f (s.reg a))).advance 1 :=
  withReg_operand s a _

theorem aluBinary_operand (f : Byte → Byte → Byte) (a b : Reg) (s : State) :
    aluBinary f a.operand b.operand s = (s.setReg a (f (s.reg a) (s.reg b))).advance 2 :=
  withRegs_operand s a b _

/-- The whole rule of an instruction of the common unary form, from the function it computes. -/
theorem unaryRule_of_aluUnary {op : Byte} {mk : Byte → Instr} {result : Byte → Byte → Prop} (f : Byte → Byte)
    (row : opcodeRow op = some ⟨op, .f1R mk⟩) (operands : ∀ ra, (mk ra).registerOperands = [ra])
    (run : ∀ ra s, exec (mk ra) s = .next (aluUnary f ra s)) (value : ∀ p, result p (f p)) :
    UnaryRule op mk result := by
  refine ⟨decode_of_f1R row, fun s a => ?writes, fun ra => ?rejects⟩
  case writes =>
    have next := (run a.operand s).trans (congrArg _ (aluUnary_operand f a s))
    exact ⟨_, _, next, value _, writesOnly_setReg_advance s a _ 1⟩
  case rejects => exact rejectsBadOperand_of_withReg (operands ra) fun s => ⟨_, run ra s⟩

/-- The whole rule of an instruction of the common binary form (rule R150), from the function it computes, which may depend
on the parameters. -/
theorem binaryRule_of_aluBinary {op : Byte} {mk : Byte → Byte → Instr} {result : State → Byte → Byte → Byte → Prop}
    (f : State → Byte → Byte → Byte) (row : opcodeRow op = some ⟨op, .f2RR mk⟩)
    (operands : ∀ ra rb, (mk ra rb).registerOperands = [ra, rb])
    (run : ∀ ra rb s, exec (mk ra rb) s = .next (aluBinary (f s) ra rb s))
    (value : ∀ s p q, result s p q (f s p q)) : BinaryRule op mk result := by
  refine ⟨decode_of_f2RR row, fun s a b => ?writes, fun ra rb => ?rejects⟩
  case writes =>
    have next := (run a.operand b.operand s).trans (congrArg _ (aluBinary_operand (f s) a b s))
    exact ⟨_, _, next, value _ _ _, writesOnly_setReg_advance s a _ 2⟩
  case rejects => exact rejectsBadOperand_of_withRegs (operands ra rb) fun s => ⟨_, run ra rb s⟩

/-! ### Arithmetic and logic -/

/-- Settles O11: byte addition, subtraction and multiplication are those of the naturals and integers modulo 256. -/
theorem wrappingArithmetic : Obligations.WrappingArithmetic := by
  refine ⟨binaryRule_of_aluBinary (fun _ p q => p + q) rfl (fun _ _ => rfl) (fun _ _ _ => rfl) fun _ p q => ?sum,
    binaryRule_of_aluBinary (fun _ p q => p - q) rfl (fun _ _ => rfl) (fun _ _ _ => rfl) fun _ p q => ?difference,
    binaryRule_of_aluBinary (fun _ p q => p * q) rfl (fun _ _ => rfl) (fun _ _ _ => rfl) fun _ p q => ?product⟩
  case sum => exact (wrap8_toNat_add p q).symm
  case difference => exact (ofInt_toNat_sub p q).symm
  case product => exact (wrap8_toNat_mul p q).symm

/-- Settles O13: the bits of the three bitwise results. -/
theorem bitwiseLogic : Obligations.BitwiseLogic :=
  ⟨binaryRule_of_aluBinary (fun _ p q => p &&& q) rfl (fun _ _ => rfl) (fun _ _ _ => rfl)
      fun _ _ _ _ => BitVec.getLsbD_and,
    binaryRule_of_aluBinary (fun _ p q => p ||| q) rfl (fun _ _ => rfl) (fun _ _ _ => rfl)
      fun _ _ _ _ => BitVec.getLsbD_or,
    binaryRule_of_aluBinary (fun _ p q => p ^^^ q) rfl (fun _ _ => rfl) (fun _ _ _ => rfl)
      fun _ _ _ _ => BitVec.getLsbD_xor⟩

/-- Settles O14: the bitwise complement is `255 - p`, and INC and DEC add and subtract 1 modulo 256. -/
theorem complementIncrementDecrement : Obligations.ComplementIncrementDecrement := by
  refine ⟨unaryRule_of_aluUnary (fun p => ~~~ p) rfl (fun _ => rfl) (fun _ _ => rfl) fun p => ?complement,
    unaryRule_of_aluUnary (fun p => p + 1) rfl (fun _ => rfl) (fun _ _ => rfl) fun p => ?increment,
    unaryRule_of_aluUnary (fun p => p - 1) rfl (fun _ => rfl) (fun _ _ => rfl) fun p => ?decrement⟩
  case complement => exact BitVec.toNat_not
  case increment => exact (wrap8_toNat_add p 1).symm
  case decrement => exact (ofInt_toNat_sub p 1).symm

/-! ### Division -/

/-- DIV and MOD by a register that is not 0 write register A (rules R158, R159). -/
theorem aluDivision_of_ne_zero (op : DivisionOp) (f : Byte → Byte → Byte) {s : State} (a : Reg) {b : Reg}
    (divisor : s.reg b ≠ 0) :
    aluDivision op f a.operand b.operand s = (s.setReg a (f (s.reg a) (s.reg b))).advance 2 := by
  rw [aluDivision, withRegs_operand, if_neg divisor]

/-- DIV and MOD by a register that is 0 fault (rules R158, R159). -/
theorem aluDivision_of_eq_zero (op : DivisionOp) (f : Byte → Byte → Byte) {s : State} (a : Reg) {b : Reg}
    (zero : s.reg b = 0) : aluDivision op f a.operand b.operand s = s.raiseFault (.divisionByZero op s.pc) := by
  rw [aluDivision, withRegs_operand, if_pos zero]

/-- The quotient and the remainder of bytes are those of the one division of naturals (rule R160). -/
theorem toNat_udiv_umod_law (p q : Byte) : p.toNat = q.toNat * (p / q).toNat + (p % q).toNat := by
  rw [BitVec.toNat_udiv, BitVec.toNat_umod, Nat.div_add_mod]

/-- The remainder is below a divisor that is not 0 (rule R160). -/
theorem toNat_umod_lt (p : Byte) {q : Byte} (divisor : q ≠ 0) : (p % q).toNat < q.toNat := by
  rw [BitVec.toNat_umod]
  exact Nat.mod_lt _ (Nat.pos_of_ne_zero fun zero => divisor (BitVec.eq_of_toNat_eq zero))

/-- Settles O12: DIV and MOD split on the divisor, and their two results are those of one division of naturals. -/
theorem divisionLaw : Obligations.DivisionLaw := by
  refine ⟨fun ra rb => ⟨decode_of_f2RR rfl ra rb, decode_of_f2RR rfl ra rb⟩, fun s a b divisor => ?divides,
    fun s a b zero => ?faults, fun ra rb => ⟨?rejectsDiv, ?rejectsMod⟩⟩
  case divides =>
    exact ⟨_, _, _, _, congrArg Host.Outcome.next (aluDivision_of_ne_zero .div _ a divisor),
      congrArg Host.Outcome.next (aluDivision_of_ne_zero .mod _ a divisor), writesOnly_setReg_advance s a _ 2,
      writesOnly_setReg_advance s a _ 2, toNat_udiv_umod_law _ _, toNat_umod_lt _ divisor⟩
  case faults =>
    exact ⟨_, _, congrArg Host.Outcome.next (aluDivision_of_eq_zero .div _ a zero),
      congrArg Host.Outcome.next (aluDivision_of_eq_zero .mod _ a zero), faultStop_raiseFault _ s, faultStop_raiseFault _ s⟩
  case rejectsDiv => exact rejectsBadOperand_of_withRegs rfl fun _ => ⟨_, rfl⟩
  case rejectsMod => exact rejectsBadOperand_of_withRegs rfl fun _ => ⟨_, rfl⟩

/-! ### Compare -/

theorem compareFlags_of_eq {p q : Byte} (eq : p.toNat = q.toNat) : compareFlags p q = 0b001 :=
  if_pos (BitVec.eq_of_toNat_eq eq)

theorem compareFlags_of_lt {p q : Byte} (lt : p.toNat < q.toNat) : compareFlags p q = 0b100 := by
  have ne : p ≠ q := fun eq => lt.ne (congrArg _ eq)
  rw [compareFlags, if_neg ne, if_pos lt]

theorem compareFlags_of_gt {p q : Byte} (gt : q.toNat < p.toNat) : compareFlags p q = 0b010 := by
  have ne : p ≠ q := fun eq => gt.ne' (congrArg _ eq)
  rw [compareFlags, if_neg ne, if_neg gt.asymm]

/-- E, L and G after a compare say which of the three orders holds (rules R38, R171). -/
theorem compareFlags_law (p q : Byte) :
    (flE (compareFlags p q) = true ↔ p.toNat = q.toNat) ∧ (flL (compareFlags p q) = true ↔ p.toNat < q.toNat) ∧
      (flG (compareFlags p q) = true ↔ q.toNat < p.toNat) := by
  rcases lt_trichotomy p.toNat q.toNat with lt | eq | gt
  · simp [compareFlags_of_lt lt, flE, flL, flG, lt, lt.ne, lt.le]
  · simp [compareFlags_of_eq eq, flE, flL, flG, eq]
  · simp [compareFlags_of_gt gt, flE, flL, flG, gt, gt.ne', gt.le]

theorem exec_cmp_operand (a b : Reg) (s : State) : exec (.cmp a.operand b.operand) s =
    .next ((s.setFl (compareFlags (s.reg a) (s.reg b))).advance 2) :=
  congrArg _ (withRegs_operand s a b _)

/-- Settles O16: CMP writes FL and the PC alone, and FL by the order of the two registers. -/
theorem compareSetsOneFlag : Obligations.CompareSetsOneFlag := by
  refine ⟨decode_of_f2RR rfl, fun s a b => ?compares, fun ra rb => ?rejects⟩
  case compares =>
    obtain ⟨equal, less, greater⟩ := compareFlags_law (s.reg a) (s.reg b)
    exact ⟨_, exec_cmp_operand a b s, equal, less, greater, rfl, fun _ _ => rfl, fun _ => rfl, rfl,
      ⟨rfl, rfl, rfl, rfl, rfl, ⟨rfl, rfl, rfl, rfl, rfl, rfl, rfl, rfl⟩⟩⟩
  case rejects => exact rejectsBadOperand_of_withRegs rfl fun _ => ⟨_, rfl⟩

end Sys2Proof.Machine
end

section
/-! The stack (spec/42_stack.md): Push and Pop, the register, the byte and the frame of each, and RET. -/

namespace Sys2Proof

/-- An opcode of the format F0 decodes with no operand byte (rule R103). -/
theorem decode_of_f0 {op : Byte} {i : Instr} (row : opcodeRow op = some ⟨op, .f0 i⟩) : decode [op] = .ok i [] := by
  simp [decode, decodeOp, row, operandCount_of_row row, Form.build, Form.operands]

end Sys2Proof

namespace Sys2Proof.Machine

/-! ### Push and Pop -/

theorem State.reg_push_sp (s : State) (v : Byte) : (s.push v).reg .r7 = s.reg .r7 - 1 := State.reg_setReg_self s .r7 _

theorem State.reg_pop_sp (s : State) : s.pop.2.reg .r7 = s.reg .r7 + 1 := State.reg_setReg_self s .r7 _

/-- Push stores its value at the new SP (rule R190). -/
theorem State.readMem_push_sp (s : State) (v : Byte) : (s.push v).readMem ((s.push v).reg .r7) = v := by
  rw [State.reg_push_sp, State.readMem_push, if_pos rfl]

theorem sameRegsBut_push (s : State) (v : Byte) : SameRegsBut [.r7] s (s.push v) :=
  fun _ other => State.reg_setReg_ne s _ (List.ne_of_not_mem_cons other)

theorem sameRegsBut_pop (s : State) : SameRegsBut [.r7] s s.pop.2 :=
  fun _ other => State.reg_setReg_ne s _ (List.ne_of_not_mem_cons other)

/-- Push stores nowhere but at the new SP (rule R190). -/
theorem sameMemBut_push (s : State) (v : Byte) : SameMemBut [(s.push v).reg .r7] s (s.push v) := by
  intro x other
  have ne : x ≠ s.reg .r7 - 1 := State.reg_push_sp s v ▸ List.ne_of_not_mem_cons other
  rw [State.readMem_push, if_neg ne]

/-- Pop erases nothing (rule R191). -/
theorem sameMem_pop (s : State) : SameMem s s.pop.2 := s.pop_readMem

theorem sameControl_push (s : State) (v : Byte) : SameControl s (s.push v) :=
  ⟨rfl, rfl, rfl, rfl, rfl, ⟨rfl, rfl, rfl, rfl, rfl, rfl, rfl, rfl⟩⟩

theorem sameControl_pop (s : State) : SameControl s s.pop.2 :=
  ⟨rfl, rfl, rfl, rfl, rfl, ⟨rfl, rfl, rfl, rfl, rfl, rfl, rfl, rfl⟩⟩

/-- Settles O17: SP moves by one modulo 256, and what Push and Pop leave is their frames. -/
theorem stackPrimitives : Obligations.StackPrimitives := by
  refine fun s v => ⟨⟨?lowers, s.readMem_push_sp v, sameRegsBut_push s v, sameMemBut_push s v, rfl, rfl, rfl,
      sameControl_push s v⟩, ⟨s.pop_value, ?raises, sameRegsBut_pop s, sameMem_pop s, rfl, rfl, rfl, sameControl_pop s⟩⟩
  case lowers => exact (s.reg_push_sp v).trans (ofInt_toNat_sub (s.reg .r7) 1).symm
  case raises => exact s.reg_pop_sp.trans (wrap8_toNat_add (s.reg .r7) 1).symm

/-! ### RET -/

/-- A write of the PC keeps the control state. -/
theorem SameControl.setPc {s t : State} (same : SameControl s t) (target : Byte) : SameControl s (t.setPc target) :=
  { same with source := { same.source with } }

/-- RET is a Pop into the PC (rule R195). -/
theorem exec_ret (s : State) : exec .ret s = .next (s.pop.2.setPc s.pop.1) := rfl

/-- Settles O21: RET is a Pop into the PC, and so leaves what Pop leaves. -/
theorem returnPops : Obligations.ReturnPops :=
  ⟨decode_of_f0 rfl, fun s => ⟨_, exec_ret s, s.pop_value, s.reg_pop_sp, sameRegsBut_pop s, sameMem_pop s, rfl, rfl,
    (sameControl_pop s).setPc _⟩⟩

end Sys2Proof.Machine
end

section
/-! Control transfer (spec/43_control.md): the frame of a write of the PC, the common form of a jump, and the conditions. -/

namespace Sys2Proof.Machine

/-- A write of the PC changes nothing else (rule R210). -/
theorem jumpsOnly_setPc (s : State) (target : Byte) : JumpsOnly target s (s.setPc target) where
  pc := s.setPc_pc target
  regs q _ := s.setPc_reg target q
  mem := s.setPc_readMem target
  fl := s.setPc_fl target
  out := s.setPc_out target
  control := SameControl.setPc ⟨rfl, rfl, rfl, rfl, rfl, ⟨rfl, rfl, rfl, rfl, rfl, rfl, rfl, rfl⟩⟩ target

theorem jumpIf_operand (taken : Bool) (a : Reg) (s : State) :
    jumpIf taken a.operand s = s.setPc (if taken then s.reg a else s.pc + 2) :=
  withReg_operand s a _

/-- The whole rule of an instruction of the common jump form (rule R210), from the model's condition `taken` and its
reading `cond` on the bits of FL. -/
theorem jumpRule_of_jumpIf {op : Byte} {mk : Byte → Instr} {cond : BitVec 3 → Bool} (taken : BitVec 3 → Bool)
    (row : opcodeRow op = some ⟨op, .f1R mk⟩) (operands : ∀ ra, (mk ra).registerOperands = [ra])
    (run : ∀ ra s, exec (mk ra) s = .next (jumpIf (taken s.fl) ra s)) (bits : ∀ fl, taken fl = cond fl) :
    JumpRule op mk cond := by
  refine ⟨decode_of_f1R row, fun s a => ?jumps, fun ra => ?rejects⟩
  case jumps =>
    have next := (run a.operand s).trans (congrArg _ (jumpIf_operand (taken s.fl) a s))
    exact ⟨_, next, bits s.fl ▸ jumpsOnly_setPc s _⟩
  case rejects => exact rejectsBadOperand_of_withReg (operands ra) fun s => ⟨_, run ra s⟩

/-- Settles O26: JMP is the common jump, always taken. -/
theorem jumpUnconditional : Obligations.JumpUnconditional :=
  jumpRule_of_jumpIf (fun _ => true) rfl (fun _ => rfl) (fun _ _ => rfl) fun _ => rfl

/-- Settles O27: each conditional jump is the common jump with its own condition, read on the bits of FL (rule R38). -/
theorem conditionalJumps : Obligations.ConditionalJumps :=
  ⟨jumpRule_of_jumpIf condEq rfl (fun _ => rfl) (fun _ _ => rfl) fun _ => rfl,
    jumpRule_of_jumpIf condNe rfl (fun _ => rfl) (fun _ _ => rfl) fun _ => rfl,
    jumpRule_of_jumpIf condLt rfl (fun _ => rfl) (fun _ _ => rfl) fun _ => rfl,
    jumpRule_of_jumpIf condGt rfl (fun _ => rfl) (fun _ _ => rfl) fun _ => rfl,
    jumpRule_of_jumpIf condLe rfl (fun _ => rfl) (fun _ _ => rfl) fun _ => rfl,
    jumpRule_of_jumpIf condGe rfl (fun _ => rfl) (fun _ _ => rfl) fun _ => rfl⟩

end Sys2Proof.Machine
end

section
/-! Data movement (spec/45_data.md): the format with an immediate byte, and LDI. -/

namespace Sys2Proof

/-- An opcode of the format F2RI decodes with a register byte and an immediate byte (rule R103). -/
theorem decode_of_f2RI {op : Byte} {mk : Byte → Byte → Instr} (row : opcodeRow op = some ⟨op, .f2RI mk⟩) (ra imm : Byte) :
    decode [op, ra, imm] = .ok (mk ra imm) [] := by
  simp [decode, decodeOp, row, operandCount_of_row row, Form.build, Form.operands]

end Sys2Proof

namespace Sys2Proof.Machine

/-- LDI on an existing register writes its immediate byte, whatever that is (rule R240). -/
theorem exec_ldi_operand (a : Reg) (imm : Byte) (s : State) :
    exec (.ldi a.operand imm) s = .next ((s.setReg a imm).advance 2) :=
  congrArg _ (withReg_operand s a _)

/-- Settles O28: LDI checks its first operand byte alone, and writes its register and the PC alone. -/
theorem loadImmediate : Obligations.LoadImmediate := by
  refine ⟨decode_of_f2RI rfl, fun s a imm => ?writes, fun ra imm => ?rejects⟩
  case writes => exact ⟨_, exec_ldi_operand a imm s, writesOnly_setReg_advance s a imm 2⟩
  case rejects => exact rejectsBadOperand_of_withReg rfl fun _ => ⟨_, rfl⟩

end Sys2Proof.Machine
end

section
/-! Output and halt (spec/46_io_halt.md): which step appends to the output stream, HLT and the EF after it, and the machine
that has left its loop. -/

namespace Sys2Proof.Machine

/-! ### Output -/

/-- `i` is PRN or PRA, and it has appended one event at the end of the stream (rules R250, R251). -/
def Prints (i : Instr) (s t : State) : Prop :=
  (∃ e, t.out = s.out ++ [e]) ∧ ∃ ra, i = .prn ra ∨ i = .pra ra

/-- PRN and PRA alone write the output stream, and they append to it (rule R253). -/
theorem exec_out {i : Instr} {s t : State} (h : exec i s = .next t) : t.out = s.out ∨ Prints i s t := by
  cases exec_effect h with
  | print a ev prints => exact .inr ⟨⟨ev, rfl⟩, a.operand, prints⟩
  | iret => exact .inl s.returnFromInterrupt_out
  | _ => exact .inl rfl

/-- Settles O53: of the cases of a step, EX of PRN or PRA alone writes the output stream. -/
theorem outputAppends : Obligations.OutputAppends := by
  intro s t h
  cases step_cases h with
  | ex i _ m _ p fetched run =>
    rw [fetched]
    obtain kept | ⟨appended, ra, prints⟩ := exec_out run
    · exact .inl kept
    · exact .inr ⟨m, p, appended, ra, prints.imp (congrArg some) (congrArg some)⟩
  | source p => exact .inl (sourceCycle_out p s.takeTurn)
  | ebService i => exact .inl (State.service_out s.takeTurn i)
  | _ => exact .inl rfl

/-! ### HLT -/

/-- HLT halts, settles the terminal status and advances the PC (rule R252). -/
theorem exec_hlt (s : State) :
    exec .hlt s = .next (State.advance { s with halted := true, status := s.status.settle .halt } 0) := rfl

/-- On a machine halted with a terminal status, EF only moves on, whether or not termination is requested: the first
terminal status stands (rules R136, R137). -/
theorem actionEF_of_halted {s : State} (halted : s.halted = true) (terminal : s.status ≠ .running) :
    actionEF s = { s with phase := .ea } := by
  rcases Bool.eq_false_or_eq_true s.termReq with request | noRequest
  · rw [actionEF_of_request request, RunStatus.settle_of_ne .quit terminal, ← halted]
  · exact actionEF_of_noRequest noRequest

/-- After HLT the engine's next move is EF, which takes it to the loop's head (rule R137). -/
theorem engineStep_of_halted_ef {s : State} (halted : s.halted = true) (terminal : s.status ≠ .running)
    (p : s.phase = .ef) : engineStep s = .next { s with phase := .ea } :=
  (engineStep_of_ef p).trans (congrArg _ (actionEF_of_halted halted terminal))

/-- A halted engine at the loop's head has left the loop (rule R130). -/
theorem State.leftLoop_of_halted {s : State} (halted : s.halted = true) (p : s.phase = .ea) : s.leftLoop = true := by
  simp [State.leftLoop, halted, p]

theorem sourceCycle_leftLoop (p : Poll) (s : State) : (sourceCycle p s).leftLoop = s.leftLoop := by
  simp [State.leftLoop]

/-- Settles O32: HLT's effect is one update of the state; EF after it only moves on to the loop's head, where a halted engine
leaves; after the loop a step is a source cycle or the engine's last move. -/
theorem haltFinishesIteration : Obligations.HaltFinishesIteration := by
  refine ⟨decode_of_f0 rfl, fun s => ⟨_, exec_hlt s, rfl, RunStatus.settle_of_running .halt, RunStatus.settle_of_ne .halt,
    rfl, fun _ _ => rfl, fun _ => rfl, rfl, rfl, rfl, rfl, rfl, ⟨rfl, rfl, rfl, rfl, rfl, rfl, rfl, rfl⟩,
    fun p => ?leaves⟩, fun s t left h => ?stays⟩
  case leaves =>
    have terminal : s.status.settle .halt ≠ .running := RunStatus.settle_ne_running (by simp)
    exact ⟨_, engineStep_of_halted_ef rfl terminal p, State.leftLoop_of_halted rfl rfl, rfl, rfl, rfl⟩
  case stays =>
    obtain ⟨p, rfl⟩ | rfl := step_of_leftLoop left h
    · exact ⟨(sourceCycle_leftLoop p s.takeTurn).trans left, sourceCycle_pc p s.takeTurn, sourceCycle_ie p s.takeTurn,
        sourceCycle_out p s.takeTurn, sourceCycle_readMem p s.takeTurn⟩
    · exact ⟨left, rfl, rfl, rfl, fun _ => rfl⟩

end Sys2Proof.Machine
end

section
/-! The Interrupt Source's reach (rules R321, R325): the bits a cycle sets in IS, what becomes of `last_key`, and what a cycle
depends on. -/

namespace Sys2Proof.Machine

/-! ### The keyboard -/

/-- IS after a cycle is IS before it with the cycle's bits set (rule R326). -/
theorem sourceCycle_reg_r6 (p : Poll) (s : State) : (sourceCycle p s).reg .r6 = s.reg .r6 ||| sourceBits p s :=
  (sourceCycle_reg p s .r6).trans (if_pos rfl)

/-- A bit of IS after a cycle is set exactly if it was set or the cycle sets it. -/
theorem sourceCycle_r6_getLsbD (p : Poll) (s : State) (n : Nat) :
    ((sourceCycle p s).reg .r6).getLsbD n = ((s.reg .r6).getLsbD n || (sourceBits p s).getLsbD n) := by
  rw [sourceCycle_reg_r6, BitVec.getLsbD_or]

/-- A key raises the keyboard interrupt exactly if it is permitted (rule R321). -/
theorem sourceBits_key_getLsbD_one (k : Byte) {s : State} (polls : s.srcStop = false) :
    (sourceBits (.key k) s).getLsbD 1 = (s.ie && (s.reg .r5).getLsbD 1) := by
  rw [sourceBits_getLsbD, polls]
  simp

/-- No other poll raises it. -/
theorem sourceBits_getLsbD_one_of_ne_key {p : Poll} (other : ∀ k, p ≠ .key k) (s : State) :
    (sourceBits p s).getLsbD 1 = false := by
  rw [sourceBits_getLsbD]
  cases p with
  | key k => exact absurd rfl (other k)
  | _ => simp

theorem sourceKey_of_srcStop (p : Poll) {s : State} (stopped : s.srcStop = true) : sourceKey p s = s.lastKey :=
  if_pos stopped

theorem sourceKey_key (k : Byte) {s : State} (polls : s.srcStop = false) : sourceKey (.key k) s = k := by
  simp [sourceKey, keyboardKey, polls]

/-- No other poll records a key, whether or not the source is asked to stop. -/
theorem sourceKey_of_ne_key {p : Poll} (other : ∀ k, p ≠ .key k) (s : State) : sourceKey p s = s.lastKey := by
  cases p with
  | key k => exact absurd rfl (other k)
  | _ => exact ite_self s.lastKey

/-- Settles O44: `last_key` by `sourceKey`, IS bit 1 by the bit that a key sets and no other poll does. -/
theorem keyboardPartRule : Obligations.KeyboardPart := by
  refine ⟨fun s k polls => ⟨?recorded, ?raised⟩, fun s p other => ⟨?keptKey, ?keptBit⟩⟩
  case recorded => exact (sourceCycle_lastKey _ s).trans (sourceKey_key k polls)
  case raised => rw [sourceCycle_r6_getLsbD, sourceBits_key_getLsbD_one k polls]
  case keptKey => exact (sourceCycle_lastKey p s).trans (sourceKey_of_ne_key other s)
  case keptBit => rw [sourceCycle_r6_getLsbD, sourceBits_getLsbD_one_of_ne_key other, Bool.or_false]

/-! ### What a cycle writes and what it depends on -/

theorem sameRegsBut_sourceCycle (p : Poll) (s : State) : SameRegsBut [.r6] s (sourceCycle p s) :=
  fun q other => (sourceCycle_reg p s q).trans (if_neg (List.ne_of_not_mem_cons other))

/-- A cycle sets no bit of IS but bits 0 and 1 (rule R325). -/
theorem sourceBits_getLsbD_of_two_le (p : Poll) (s : State) {n : Nat} (high : 2 ≤ n) :
    (sourceBits p s).getLsbD n = false := by
  have ne0 : n ≠ 0 := by omega
  have ne1 : n ≠ 1 := by omega
  rw [sourceBits_getLsbD]
  cases p <;> simp [ne0, ne1]

/-- The bits a cycle sets depend on `ie`, IM, `src_stop`, the tick and the parameters alone (rule R325). -/
theorem sourceBits_congr (p : Poll) {s u : State} (ie : s.ie = u.ie) (mask : s.reg .r5 = u.reg .r5)
    (stop : s.srcStop = u.srcStop) (tick : s.tick = u.tick) (params : s.params = u.params) :
    sourceBits p s = sourceBits p u := by
  refine BitVec.eq_of_getLsbD_eq fun n _ => ?_
  rw [sourceBits_getLsbD, sourceBits_getLsbD, ie, mask, stop, tick, params]

/-- Of two sources of which both or neither is asked to stop, both record one key or neither records any. -/
theorem sourceKey_same_or_kept (p : Poll) {s u : State} (stop : s.srcStop = u.srcStop) :
    sourceKey p s = sourceKey p u ∨ (sourceKey p s = s.lastKey ∧ sourceKey p u = u.lastKey) := by
  cases asked : u.srcStop with
  | true => exact .inr ⟨sourceKey_of_srcStop p (stop.trans asked), sourceKey_of_srcStop p asked⟩
  | false =>
    cases p with
    | key k => exact .inl ((sourceKey_key k (stop.trans asked)).trans (sourceKey_key k asked).symm)
    | _ => exact .inr ⟨sourceKey_of_ne_key (by simp) s, sourceKey_of_ne_key (by simp) u⟩

/-- Settles O47: the writes are those of `sourceCycle_eq`, and each is a function of what the cycle may read. -/
theorem sourceReach : Obligations.SourceReach := by
  refine ⟨fun s p => ⟨_, rfl, sameRegsBut_sourceCycle p s, fun n high => ?highBits, fun n isSet => ?noneCleared,
    sourceCycle_mem p s, sourceCycle_pc p s, sourceCycle_fl p s, sourceCycle_ir p s, sourceCycle_ie p s,
    sourceCycle_halted p s, sourceCycle_status p s, sourceCycle_out p s, sourceCycle_phase p s,
    sourceCycle_srcStop p s, sourceCycle_params p s, sourceCycle_schedule p s, sourceCycle_drawn p s⟩,
    fun s u p ie mask stop tick params => ⟨?tick, ⟨sourceBits p u, ?bits, sourceCycle_reg_r6 p u⟩, ?key,
      ⟨!u.srcStop && decide (p = .quit), ?termReq, sourceCycle_termReq p u⟩,
      ⟨!(u.srcStop || decide (p = .quit)), ?srcLive, sourceCycle_srcLive p u⟩⟩⟩
  case highBits => rw [sourceCycle_r6_getLsbD, sourceBits_getLsbD_of_two_le p s high, Bool.or_false]
  case noneCleared => rw [sourceCycle_r6_getLsbD, isSet, Bool.true_or]
  case tick => rw [sourceCycle_tick, sourceCycle_tick, stop, tick, params]
  case bits => rw [sourceCycle_reg_r6, sourceBits_congr p ie mask stop tick params]
  case key =>
    rw [sourceCycle_lastKey, sourceCycle_lastKey]
    exact sourceKey_same_or_kept p stop
  case termReq => rw [sourceCycle_termReq, stop]
  case srcLive => rw [sourceCycle_srcLive, stop]

end Sys2Proof.Machine
end

section
/-! The fatal errors (rule R303): what can record one. -/

namespace Sys2Proof.Machine

/-- Settling leaves the old status or the new one (rule R46). -/
theorem RunStatus.settle_eq_or (old new : RunStatus) : old.settle new = old ∨ old.settle new = new :=
  (ite_eq_or_eq _ new old).symm

/-- A settled status that was not there before is the new one. -/
theorem RunStatus.eq_of_settle {old new r : RunStatus} (settled : old.settle new = r) (fresh : old ≠ r) : new = r := by
  rcases RunStatus.settle_eq_or old new with stands | taken
  · exact absurd (stands.symm.trans settled) fresh
  · exact taken.symm.trans settled

/-- An instruction that records a fatal error has an operand that names no register, or divides by zero (rule R303). -/
theorem faulty_of_recorded {i : Instr} {s t : State} {k : FaultInfo} (run : exec i s = .next t)
    (recorded : t.status = .fault k) (fresh : s.status ≠ .fault k) : Faulty i s := by
  cases exec_effect run with
  | fault _ bad => exact bad
  | halt =>
    have halts : RunStatus.halt = .fault k := RunStatus.eq_of_settle recorded fresh
    contradiction
  | iret => exact absurd (s.returnFromInterrupt_status.symm.trans recorded) fresh
  | _ => exact absurd recorded fresh

/-- Nothing is fetched only for want of a row of the opcode (rule R105). -/
theorem State.unimplemented_of_fetched {s : State} (nothing : s.fetched = none) : opcodeRow (s.readMem s.pc) = none :=
  Option.map_eq_none_iff.mp nothing

/-- Settles O8: of the cases of a step, EX alone raises a fatal error; EF settles on `Quit`, and the others keep the status. -/
theorem nothingElseFaults : Obligations.NothingElseFaults := by
  intro s t k h recorded fresh
  cases step_cases h with
  | exUnimplemented m _ p nothing => exact ⟨m, p, .inl (State.unimplemented_of_fetched nothing)⟩
  | ex i _ m _ p fetched run =>
    have faulty : Faulty i s.takeTurn.fetchOpcode := faulty_of_recorded run recorded fresh
    exact ⟨m, p, .inr ⟨i, fetched, faulty⟩⟩
  | efQuit =>
    have quits : RunStatus.quit = .fault k := RunStatus.eq_of_settle recorded fresh
    contradiction
  | source p => exact absurd ((sourceCycle_status p s.takeTurn).symm.trans recorded) fresh
  | ebService i => exact absurd ((State.service_status s.takeTurn i).symm.trans recorded) fresh
  | stopSource | ea | ebIdle | efOn => exact absurd recorded fresh

end Sys2Proof.Machine
end

section
/-! Weak fairness (rule R371): how a step uses up the turns to come, what it leaves of the other agent, and the agent whose
turn is among the turns to come. -/

namespace Sys2Proof.Machine

/-! ### The engine's move and the steps -/

/-- The engine always goes on (rule R140). -/
theorem engineStep_next (s : State) : ∃ t, engineStep s = .next t := by
  cases left : s.leftLoop with
  | true => exact ⟨_, if_pos left⟩
  | false =>
    cases p : s.phase with
    | ea => exact ⟨_, engineStep_of_ea left p⟩
    | eb => exact ⟨_, engineStep_of_eb left p⟩
    | ef => exact ⟨_, engineStep_of_ef p⟩
    | ex =>
      have fetches : engineStep s = actionEX s := by simp [engineStep, left, p]
      rw [fetches, actionEX]
      cases s.fetched with
      | none => exact ⟨_, rfl⟩
      | some i => exact exec_next i s.fetchOpcode

theorem steps_succ {s t : State} (h : step s = .next t) (k : Nat) : steps (k + 1) s = steps k t := by
  simp [steps, h]

/-- A step is a source cycle, or a move of the engine, which takes the same turn and keeps the source alive. -/
theorem step_by_mover {s t : State} (h : step s = .next t) :
    (∃ p, s.mover = some (.source p) ∧ t = sourceCycle p s.takeTurn) ∨
      (s.mover = some .engine ∧ t.schedule = s.takeTurn.schedule ∧ t.drawn = s.takeTurn.drawn ∧
        t.srcLive = s.srcLive) := by
  cases step_cases h with
  | source p m => exact .inl ⟨p, m, rfl⟩
  | ex i _ m _ _ _ run =>
    have same := exec_sameSource run
    exact .inr ⟨m, same.schedule, same.drawn, same.srcLive⟩
  | ebService i m =>
    exact .inr ⟨m, s.takeTurn.service_schedule i, s.takeTurn.service_drawn i, s.takeTurn.service_srcLive i⟩
  | stopSource m | ea m | ebIdle m | exUnimplemented m | efQuit m | efOn m => exact .inr ⟨m, rfl, rfl, rfl⟩

/-! ### The turns to come -/

/-- The turns listed and one free block after them. -/
def State.ahead (s : State) : List Turn := s.schedule ++ freeBlock s.drawn

/-- Taking a turn leaves the other turns to come at their places. -/
theorem State.ahead_tail_isPrefix_takeTurn (s : State) : s.ahead.tail <+: s.takeTurn.ahead := by
  cases listed : s.schedule with
  | nil =>
    have drawsNext : s.takeTurn.ahead = (freeBlock s.drawn).tail ++ freeBlock (s.drawn + 1) := by
      simp [State.ahead, State.turns_of_nil listed, listed]
    have current : s.ahead = freeBlock s.drawn := by simp [State.ahead, listed]
    rw [drawsNext, current]
    exact ⟨_, rfl⟩
  | cons u rest => simp [State.ahead, State.takeTurn_of_cons listed, listed]

theorem State.ahead_congr {s t : State} (schedule : s.schedule = t.schedule) (drawn : s.drawn = t.drawn) :
    s.ahead = t.ahead := by
  rw [State.ahead, State.ahead, schedule, drawn]

/-- A step uses up one turn. -/
theorem step_ahead_tail_isPrefix {s t : State} (h : step s = .next t) : s.ahead.tail <+: t.ahead := by
  have same : t.ahead = s.takeTurn.ahead := by
    rcases step_by_mover h with ⟨p, _, rfl⟩ | ⟨_, schedule, drawn, _⟩
    · exact State.ahead_congr (sourceCycle_schedule p _) (sourceCycle_drawn p _)
    · exact State.ahead_congr schedule drawn
  exact same ▸ s.ahead_tail_isPrefix_takeTurn

/-! ### The two agents -/

/-- The two agents of the machine (rule R8). -/
inductive Agent where
  | source
  | engine

/-- The agent a turn belongs to. -/
def Turn.agent : Turn → Agent
  | .source _ => .source
  | .engine => .engine

/-- The agent has a move: the source is live, the engine has not finished. -/
def Agent.HasMove : Agent → State → Prop
  | .source, s => s.srcLive = true
  | .engine, s => s.engineDone = false

/-- The agent moves next. -/
def Agent.MovesNext : Agent → State → Prop
  | .source, s => ∃ p, s.mover = some (.source p)
  | .engine, s => s.mover = some .engine

/-- The agent whose turn it is moves, if it has a move (rule R83). -/
theorem movesNext_of_turn {s : State} {u : Turn} (head : s.turns.head? = some u) (able : u.agent.HasMove s) :
    u.agent.MovesNext s := by
  cases u with
  | source p =>
    have live : s.srcLive = true := able
    exact ⟨p, by simp [State.mover, head, live]⟩
  | engine =>
    have unfinished : s.engineDone = false := able
    simp [Turn.agent, Agent.MovesNext, State.mover, head, unfinished]

/-- While an agent has a move the run goes on (rule R327). -/
theorem Agent.HasMove.mover_isSome {a : Agent} {s : State} (able : a.HasMove s) : s.mover.isSome := by
  unfold State.mover
  cases a with
  | source =>
    have live : s.srcLive = true := able
    split
    · simp [live]
    · cases s.engineDone <;> simp [live]
  | engine =>
    have unfinished : s.engineDone = false := able
    split
    · cases s.srcLive <;> simp [unfinished]
    · simp [unfinished]

theorem Agent.HasMove.step_next {a : Agent} {s : State} (able : a.HasMove s) : ∃ t, step s = .next t := by
  obtain ⟨m, moves⟩ := Option.isSome_iff_exists.mp able.mover_isSome
  unfold step nextAction
  rw [moves]
  cases m with
  | engine => exact engineStep_next s.takeTurn
  | source p => exact ⟨_, rfl⟩

/-- A source cycle does not finish the engine. -/
theorem sourceCycle_engineDone (p : Poll) (s : State) : (sourceCycle p s).engineDone = s.engineDone := by
  simp [State.engineDone, sourceCycle_leftLoop]

/-- An agent that waits for a step of the other still has its move after it. -/
theorem Agent.HasMove.of_step {a : Agent} {s t : State} (able : a.HasMove s) (waits : ¬ a.MovesNext s)
    (h : step s = .next t) : a.HasMove t := by
  rcases step_by_mover h with ⟨p, moves, rfl⟩ | ⟨moves, _, _, srcLive⟩
  · cases a with
    | source => exact absurd ⟨p, moves⟩ waits
    | engine => exact (sourceCycle_engineDone p s.takeTurn).trans able
  · cases a with
    | source => exact srcLive.trans able
    | engine => exact absurd moves waits

/-! ### Fairness -/

/-- An agent with a move and a turn among the first turns to come moves before those are used up: each step of the other
agent uses up one, and leaves the agent its move. -/
theorem steps_to_movesNext {a : Agent} {l : List Turn} {s : State} (first : l <+: s.ahead) (own : ∃ u ∈ l, u.agent = a)
    (able : a.HasMove s) : ∃ k t, k < l.length ∧ steps k s = .next t ∧ a.MovesNext t := by
  induction l generalizing s with
  | nil => simp at own
  | cons u rest ih =>
    by_cases now : a.MovesNext s
    · exact ⟨0, s, by simp, rfl, now⟩
    obtain ⟨later, parts⟩ := first
    have head : s.turns.head? = some u := by
      rw [State.turns_head?, ← State.ahead, ← parts]
      rfl
    have other : u.agent ≠ a := by
      rintro rfl
      exact now (movesNext_of_turn head able)
    have ownLater : ∃ v ∈ rest, v.agent = a := by simpa [other] using own
    obtain ⟨t, h⟩ := able.step_next
    have restFirst : rest <+: t.ahead := by
      have tail : rest <+: s.ahead.tail := ⟨later, by rw [← parts]; rfl⟩
      exact tail.trans (step_ahead_tail_isPrefix h)
    obtain ⟨k, v, small, reached, moves⟩ := ih restFirst ownLater (able.of_step now h)
    exact ⟨k + 1, v, Nat.succ_lt_succ small, (steps_succ h k).trans reached, moves⟩

/-- Whatever its free turns, a free block ends with a turn of each agent (log entry 1). -/
theorem exists_turn_freeBlock (a : Agent) (n : Nat) : ∃ u ∈ freeBlock n, u.agent = a := by
  cases a with
  | source => exact ⟨.source (Config.freePoll n), by simp [freeBlock], rfl⟩
  | engine => exact ⟨.engine, by simp [freeBlock], rfl⟩

/-- An agent with a move makes one before the turns listed and one free block are used up (rule R371). -/
theorem Agent.HasMove.weaklyFair {a : Agent} {s : State} (able : a.HasMove s) :
    ∃ k t, k < s.ahead.length ∧ steps k s = .next t ∧ a.MovesNext t := by
  obtain ⟨u, inBlock, own⟩ := exists_turn_freeBlock a s.drawn
  exact steps_to_movesNext ⟨[], List.append_nil _⟩ ⟨u, List.mem_append_right _ inBlock, own⟩ able

/-- Settles O59: the two clauses are the two agents' cases of one statement, in which a step of the other agent uses up a turn
and takes nothing from the one that waits. -/
theorem bothAgentsWeaklyFair : Obligations.BothAgentsWeaklyFair := by
  refine ⟨fun s live => ?source, fun s unfinished => ?engine⟩
  case source =>
    have able : Agent.source.HasMove s := live
    obtain ⟨k, t, small, reached, p, moves⟩ := able.weaklyFair
    exact ⟨k, t, p, small, reached, moves⟩
  case engine =>
    have able : Agent.engine.HasMove s := unfinished
    exact able.weaklyFair

end Sys2Proof.Machine
end

section
/-! The decoder and the encoder (rules R100-R112): each inverts the other, and what an opcode's bits say. -/

namespace Sys2Proof

/-! ### The rows of the opcode map -/

/-- The encoding of the instruction a row builds is the row's opcode and as many operand bytes as its format has. -/
theorem encode_build : ∀ r ∈ opcodeMap, ∀ b1 b2 : Byte,
    encode (r.form.build b1 b2) = r.opcode :: [b1, b2].take r.form.operands := by
  unfold opcodeMap opcodeMapShort opcodeMapLong
  simp [Form.build, Form.operands, encode]

/-- Every instruction is built by its opcode's row. -/
theorem exists_row (i : Instr) : ∃ r, opcodeRow i.opcode = some r ∧ ∃ b1 b2, i = r.form.build b1 b2 := by
  cases i with
  | hlt | ret | iret => exact ⟨_, rfl, 0, 0, rfl⟩
  | push ra | pop ra | prn ra | pra ra | call ra | jmp ra | jeq ra | jne ra | jgt ra | jlt ra | jle ra | jge ra | inc ra
  | dec ra | not ra => exact ⟨_, rfl, ra, 0, rfl⟩
  | ldi ra rb | ld ra rb | st ra rb | add ra rb | sub ra rb | mul ra rb | div ra rb | mod ra rb | cmp ra rb | and ra rb
  | or ra rb | xor ra rb | shl ra rb | shr ra rb => exact ⟨_, rfl, ra, rb, rfl⟩

/-! ### Decoding an encoding -/

/-- An implemented opcode with as many operand bytes as its format has decodes to the instruction that the format builds, and
leaves the bytes after them (rules R102, R112). -/
theorem decode_of_row {op : Byte} {r : OpcodeRow} (row : opcodeRow op = some r) (b1 b2 : Byte) (rest : List Byte) :
    decode (op :: [b1, b2].take r.form.operands ++ rest) = .ok (r.form.build b1 b2) rest := by
  obtain ⟨mem, rfl⟩ := opcodeRow_some row
  have count := opcodeMap_operands r mem
  obtain ⟨op, form⟩ := r
  cases form <;> simp [decode, decodeOp, row, ← count, Form.build, Form.operands]

theorem decode_encode (i : Instr) (rest : List Byte) : decode (encode i ++ rest) = .ok i rest := by
  obtain ⟨r, row, b1, b2, built⟩ := exists_row i
  obtain ⟨mem, same⟩ := opcodeRow_some row
  rw [built, encode_build r mem, same]
  exact decode_of_row row b1 b2 rest

/-- An encoding and the bytes after it can be told apart. -/
theorem encode_append_inj {i j : Instr} {rest more : List Byte} (same : encode i ++ rest = encode j ++ more) :
    i = j ∧ rest = more := by
  have decoded : Decoded.ok i rest = .ok j more := by rw [← decode_encode, same, decode_encode]
  simpa using decoded

theorem encode_ne_nil (i : Instr) : encode i ≠ [] := by
  cases i <;> simp [encode]

/-- One byte sequence is one sequence of instructions: an encoding is not empty, and ends where it ends. -/
theorem flatMap_encode_injective {is js : List Instr} (same : is.flatMap encode = js.flatMap encode) : is = js := by
  induction is generalizing js with
  | nil =>
    cases js with
    | nil => rfl
    | cons j js => simp [encode_ne_nil] at same
  | cons i is ih =>
    cases js with
    | nil => simp [encode_ne_nil] at same
    | cons j js =>
      obtain ⟨rfl, tails⟩ := encode_append_inj same
      rw [ih tails]

/-- Settles O4: an encoding is the opcode of a row and the operand bytes of its format; the two uniqueness clauses follow by
decoding. -/
theorem decodeInvertsEncode : Obligations.DecodeInvertsEncode :=
  ⟨decode_encode, fun _ _ _ _ => encode_append_inj, fun _ _ => flatMap_encode_injective⟩

/-! ### Encoding what was decoded -/

/-- The two bytes read after an opcode begin with the operand bytes that stand there. -/
theorem take_getD_pair {n : Nat} {bs : List Byte} (two : n ≤ 2) (enough : n ≤ bs.length) :
    [bs.getD 0 0, bs.getD 1 0].take n = bs.take n := by
  match n, bs with
  | 0, _ => rfl
  | 1, b :: _ => rfl
  | 2, b :: c :: _ => rfl

/-- What decodes comes from the opcode's row, with all the operand bytes of its format. -/
theorem exists_row_of_decode {bs : List Byte} {i : Instr} {rest : List Byte} (decoded : decode bs = .ok i rest) :
    ∃ r ∈ opcodeMap, ∃ tail, bs = r.opcode :: tail ∧ i = r.form.build (tail.getD 0 0) (tail.getD 1 0) ∧
      r.form.operands ≤ tail.length ∧ rest = tail.drop r.form.operands := by
  cases bs with
  | nil => simp [decode] at decoded
  | cons op tail =>
    cases row : opcodeRow op with
    | none => simp [decode, decodeOp, row] at decoded
    | some r =>
      obtain ⟨mem, rfl⟩ := opcodeRow_some row
      simp only [decode, decodeOp, row, Option.map_some, ← opcodeMap_operands r mem] at decoded
      by_cases short : tail.length < r.form.operands
      · simp [short] at decoded
      · rw [if_neg short] at decoded
        cases decoded
        exact ⟨r, mem, tail, rfl, rfl, Nat.le_of_not_lt short, rfl⟩

/-- Settles O5: the row's opcode and its format's operand bytes are the encoding of what it builds. -/
theorem encodeInvertsDecode : Obligations.EncodeInvertsDecode := by
  intro bs i rest decoded
  obtain ⟨r, mem, tail, rfl, rfl, enough, rfl⟩ := exists_row_of_decode decoded
  rw [encode_build r mem, take_getD_pair r.form.operands_le_two enough, List.cons_append, List.take_append_drop]

/-! ### The opcode's bits, and some words -/

/-- Settles O6: the bits of each instruction's opcode and the length of its encoding, computed. -/
theorem opcodeBitsMatchInstruction : Obligations.OpcodeBitsMatchInstruction := by
  intro i
  cases i <;> simp [setsPc, operandCount, encode, Instr.transfersControl, Instr.isAlu]

/-- Settles O1: the nine words are encodings; the two rejections are computed. -/
theorem decodesWordsAsWritten : Obligations.DecodesWordsAsWritten :=
  ⟨decode_encode .hlt [], decode_encode .iret [0x45], decode_encode (.push 0x07) [], decode_encode (.jne 0x02) [0xFF],
    decode_encode (.inc 0x06) [], decode_encode (.ldi 0x03 0xE0) [], decode_encode (.st 0x03 0x00) [],
    decode_encode (.sub 0x00 0x01) [], decode_encode (.shr 0x04 0x05) [], by decide, by decide⟩

end Sys2Proof
end

section
/-! What completing and faulting leave (rules R134, R135, R302), and the order of the engine's actions (rules R130, R140). -/

namespace Sys2Proof.Machine

/-! ### An instruction completes, halts or faults -/

/-- An instruction raises a fatal error and does nothing else, or it keeps the phase, and halts with `Halt` or keeps `halted`
and the status (rules R137, R138, R252). -/
theorem exec_faults_keeps_or_halts {i : Instr} {s t : State} (run : exec i s = .next t) :
    (∃ k, t = s.raiseFault k) ∨ (t.phase = s.phase ∧ t.halted = s.halted ∧ t.status = s.status) ∨
      (t.phase = s.phase ∧ t.halted = true ∧ t.status = s.status.settle .halt) := by
  cases exec_effect run with
  | fault k => exact .inl ⟨k, rfl⟩
  | halt => exact .inr (.inr ⟨rfl, rfl, rfl⟩)
  | _ => exact .inr (.inl (by simp))

/-- Settles O9: what records a fatal error is its raising, for the other shapes keep the status or settle on `Halt`. -/
theorem faultLeavesMachineUnchanged : Obligations.FaultLeavesMachineUnchanged := by
  intro i s t k running run recorded
  rcases exec_faults_keeps_or_halts run with ⟨raised, rfl⟩ | ⟨_, _, kept⟩ | ⟨_, _, halts⟩
  · obtain rfl : raised = k := by simpa using (RunStatus.settle_of_running _ running).symm.trans recorded
    exact faultStop_raiseFault raised s
  · simp [← kept, recorded] at running
  · rw [RunStatus.settle_of_running _ running, recorded] at halts
    cases halts

/-- A completed instruction whose opcode's PC-setting bit is clear has advanced the PC past its bytes (rule R135). -/
theorem exec_pc_of_plain {i : Instr} {s t : State} (run : exec i s = .next t) (ok : ¬ Faulty i s)
    (plain : setsPc i.opcode = false) : t.pc = s.pc + wrap8 (operandCount i.opcode + 1) := by
  cases exec_effect run with
  | fault _ bad => exact absurd bad ok
  | register a v n _ _ count => rw [← count, State.advance_pc, State.setReg_pc]
  | jump _ _ control => simp [plain] at control
  | call a e | ret e | iret e => simp [e, setsPc] at plain
  | compare a b e | store a b e | push a e | pop a e | halt e => simp [e, operandCount]
  | print a ev e => rcases e with e | e <;> simp [e, operandCount]

/-- A completed instruction keeps the phase and IR, and but for HLT `halted` and the status (rules R134, R137). -/
theorem exec_control_of_ok {i : Instr} {s t : State} (run : exec i s = .next t) (ok : ¬ Faulty i s) :
    (i ≠ .hlt → t.halted = s.halted ∧ t.status = s.status) ∧ t.phase = s.phase ∧ t.ir = s.ir := by
  cases exec_effect run with
  | fault _ bad => exact absurd bad ok
  | halt e => exact ⟨fun goesOn => absurd e goesOn, rfl, rfl⟩
  | _ => simp

/-- Settles O7: every instruction goes on, and one that does not fault completes as its shape says. -/
theorem advanceFollowsOpcodeBits : Obligations.AdvanceFollowsOpcodeBits := by
  intro i s registers divisor
  have ok := not_faulty registers divisor
  obtain ⟨t, run⟩ := exec_next i s
  obtain ⟨goesOn, phase, ir⟩ := exec_control_of_ok run ok
  exact ⟨t, run, exec_pc_of_plain run ok, goesOn, phase, ir, exec_sameSource run⟩

/-! ### The phases -/

theorem engineStep_of_ex {s : State} (inLoop : s.leftLoop = false) (p : s.phase = .ex) : engineStep s = actionEX s := by
  simp [engineStep, inLoop, p]

/-- EX raises a fatal error, or leads to EF with the status kept or settled on `Halt` (rules R105, R134, R138). -/
theorem actionEX_faults_or_to_ef {s t : State} (h : actionEX s = .next t) :
    (∃ k, t = s.fetchOpcode.raiseFault k) ∨
      (t.phase = .ef ∧ (t.status = s.status ∨ t.status = s.status.settle .halt)) := by
  unfold actionEX at h
  split at h
  · rcases exec_faults_keeps_or_halts h with fault | ⟨phase, _, status⟩ | ⟨phase, _, status⟩
    · exact .inl fault
    · exact .inr ⟨phase, .inl status⟩
    · exact .inr ⟨phase, .inr status⟩
  · cases h
    exact .inl ⟨_, rfl⟩

/-- From status `Running`, EX skips EF exactly if it records a fatal error (rules R137, R138). -/
theorem actionEX_phase_ea_iff {s t : State} (h : actionEX s = .next t) (running : s.status = .running) :
    t.phase = .ea ↔ ∃ k, t.status = .fault k := by
  rcases actionEX_faults_or_to_ef h with ⟨k, rfl⟩ | ⟨phase, status⟩
  · exact ⟨fun _ => ⟨k, RunStatus.settle_of_running _ running⟩, fun _ => rfl⟩
  · rw [RunStatus.settle_of_running _ running, running] at status
    rcases status with status | status <;> simp [phase, status]

theorem actionEB_phase (s : State) : (actionEB s).phase = .ex := by
  unfold actionEB
  split <;> rfl

theorem actionEF_phase (s : State) : (actionEF s).phase = .ea := by
  unfold actionEF
  split <;> rfl

/-- Settles O42: the engine's move by the phase it stands at; EX by whether it raises a fatal error. -/
theorem phaseOrder : Obligations.PhaseOrder := by
  refine ⟨fun s _ => engineStep_next s, fun s done moves => ?finished, fun s left _ => if_pos left,
    fun s t inLoop h => ⟨fun p => ?ea, fun p => ?eb, fun p => ?ef, fun p => ?ex, fun p running => ?skips⟩⟩
  case finished => exact absurd (done.symm.trans (notDone_of_mover moves)) Bool.noConfusion
  case ea =>
    cases (engineStep_of_ea inLoop p).symm.trans h
    rfl
  case eb =>
    cases (engineStep_of_eb inLoop p).symm.trans h
    exact actionEB_phase s
  case ef =>
    cases (engineStep_of_ef p).symm.trans h
    exact actionEF_phase s
  case ex =>
    rcases actionEX_faults_or_to_ef ((engineStep_of_ex inLoop p).symm.trans h) with ⟨k, rfl⟩ | ⟨phase, _⟩
    · exact .inr ⟨rfl, rfl⟩
    · exact .inl phase
  case skips => exact actionEX_phase_ea_iff ((engineStep_of_ex inLoop p).symm.trans h) running

/-! ### The end of the run -/

/-- Settles O43: an agent with a move gives the machine a step; without one no agent moves. -/
theorem stopsOnlyWhenRunOver : Obligations.StopsOnlyWhenRunOver := by
  refine fun s => ⟨fun ⟨done, ended⟩ => ⟨?stops, ?result⟩, fun goesOn => ⟨?steps, ?noResult⟩⟩
  case stops =>
    have nobody : s.mover = none := by
      unfold State.mover
      split <;> simp [done, ended]
    simp [step, nextAction, nobody]
  case result => simp [runResult, done, ended]
  case steps =>
    by_cases done : s.engineDone = true
    · have live : Agent.source.HasMove s := by simpa [Agent.HasMove, done] using goesOn
      exact live.step_next
    · have unfinished : Agent.engine.HasMove s := by simpa [Agent.HasMove] using done
      exact unfinished.step_next
  case noResult => simpa [runResult] using goesOn

end Sys2Proof.Machine
end

section
/-! The machine's invariant (`Consistent`): every step keeps it, and it holds at reset. -/

namespace Sys2Proof.Machine

/-! ### What a step does to the source's state -/

/-- A step is a source cycle, or it leaves the source's state, or it is the engine's last move. -/
theorem step_source_cases {s t : State} (h : step s = .next t) :
    (∃ p, t = sourceCycle p s.takeTurn) ∨ SameSource s.takeTurn t ∨
      (s.leftLoop = true ∧ t = { s.takeTurn with srcStop := true }) := by
  cases step_cases h with
  | source p => exact .inl ⟨p, rfl⟩
  | stopSource _ left => exact .inr (.inr ⟨left, rfl⟩)
  | ex i _ _ _ _ _ run =>
    have same := exec_sameSource run
    exact .inr (.inl { same with })
  | ebService i => exact .inr (.inl (by constructor <;> simp))
  | ea | ebIdle | exUnimplemented | efQuit | efOn => exact .inr (.inl ⟨rfl, rfl, rfl, rfl, rfl, rfl, rfl, rfl⟩)

/-- The tick stays below the poll rate (rule R44). -/
theorem step_keeps_tick_lt {s t : State} (h : step s = .next t) (below : s.tick < s.params.pollRate) :
    t.tick < t.params.pollRate := by
  rcases step_source_cases h with ⟨p, rfl⟩ | same | ⟨_, rfl⟩
  · rw [sourceCycle_tick, sourceCycle_params]
    split
    · exact below
    · exact Nat.mod_lt _ (Nat.zero_lt_of_lt below)
  · rw [same.tick, same.params]
    exact below
  · exact below

/-- The source ends with a termination request (rule R323). -/
theorem step_keeps_ended {s t : State} (h : step s = .next t) (ended : s.termReq = true → s.srcLive = false) :
    t.termReq = true → t.srcLive = false := by
  rcases step_source_cases h with ⟨p, rfl⟩ | same | ⟨_, rfl⟩
  · rw [sourceCycle_termReq, sourceCycle_srcLive, Bool.or_eq_true, Bool.and_eq_true]
    rintro (request | ⟨_, quits⟩)
    · exact Bool.and_eq_false_imp.mpr fun live => absurd (live.symm.trans (ended request)) Bool.noConfusion
    · simp [quits]
  · rw [same.termReq, same.srcLive]
    exact ended
  · exact ended

/-- The source ends on a termination request, or because the engine asked (rule R327). -/
theorem step_keeps_endedWhy {s t : State} (h : step s = .next t)
    (why : s.srcLive = false → s.termReq = true ∨ s.srcStop = true) :
    t.srcLive = false → t.termReq = true ∨ t.srcStop = true := by
  rcases step_source_cases h with ⟨p, rfl⟩ | same | ⟨_, rfl⟩
  · intro ends
    rw [sourceCycle_termReq, sourceCycle_srcStop]
    rw [sourceCycle_srcLive, Bool.and_eq_false_iff, Bool.not_eq_false', Bool.or_eq_true] at ends
    rcases ends with ended | asked | quits
    · exact (why ended).imp_left (Bool.or_eq_true_iff.mpr ∘ .inl)
    · exact .inr asked
    · rw [quits]
      cases s.takeTurn.srcStop <;> simp
  · rw [same.termReq, same.srcLive, same.srcStop]
    exact why
  · exact fun _ => .inr rfl

/-! ### What a step does to the end of the loop -/

/-- After the loop nothing brings the engine back into it (rule R130). -/
theorem step_keeps_leftLoop {s t : State} (h : step s = .next t) (left : s.leftLoop = true) : t.leftLoop = true := by
  rcases step_of_leftLoop left h with ⟨p, rfl⟩ | rfl
  · exact (sourceCycle_leftLoop p s.takeTurn).trans left
  · exact left

/-- The engine asks the source to stop in its last move alone, after the loop (rule R130). -/
theorem step_keeps_stopAfterLoop {s t : State} (h : step s = .next t)
    (afterLoop : s.srcStop = true → s.leftLoop = true) (asked : t.srcStop = true) : t.leftLoop = true := by
  refine step_keeps_leftLoop h ?_
  rcases step_source_cases h with ⟨p, rfl⟩ | same | ⟨left, _⟩
  · exact afterLoop ((sourceCycle_srcStop p s.takeTurn).symm.trans asked)
  · exact afterLoop (same.srcStop.symm.trans asked)
  · exact left

/-- The terminal status is set when `halted` is (rule R46). -/
theorem step_keeps_haltedStatus {s t : State} (h : step s = .next t) (together : s.halted = true ↔ s.status ≠ .running) :
    t.halted = true ↔ t.status ≠ .running := by
  rcases step_keepsOrHalts h with ⟨halted, status⟩ | ⟨r, terminal, halted, status⟩
  · rw [halted, status]
    exact together
  · rw [halted, status]
    exact iff_of_true rfl (RunStatus.settle_ne_running terminal)

/-- A fatal error does not settle on `Quit`. -/
theorem raiseFault_quit {s : State} {k : FaultInfo} (quits : (s.raiseFault k).status = .quit) : s.status = .quit := by
  rcases RunStatus.settle_eq_or s.status (.fault k) with stands | faults
  · exact stands.symm.trans quits
  · cases faults.symm.trans quits

/-- No instruction settles on `Quit`. -/
theorem exec_quit {i : Instr} {s t : State} (run : exec i s = .next t) (quits : t.status = .quit) : s.status = .quit := by
  rcases exec_faults_keeps_or_halts run with ⟨k, rfl⟩ | ⟨_, _, kept⟩ | ⟨_, _, settled⟩
  · exact raiseFault_quit quits
  · exact kept.symm.trans quits
  · rcases RunStatus.settle_eq_or s.status .halt with stands | halts
    · exact stands.symm.trans (settled.symm.trans quits)
    · cases halts.symm.trans (settled.symm.trans quits)

/-- Only EF settles on `Quit`, and only on a termination request (rule R136). -/
theorem step_keeps_quitRequested {s t : State} (h : step s = .next t) (requested : s.status = .quit → s.termReq = true)
    (quits : t.status = .quit) : t.termReq = true := by
  refine step_keeps_termReq h ?_
  by_cases stood : s.status = .quit
  · exact requested stood
  cases step_cases h with
  | efQuit _ _ _ request => exact request
  | exUnimplemented => exact absurd (raiseFault_quit quits) stood
  | ex i _ _ _ _ _ run => exact absurd (exec_quit run quits) stood
  | source p => exact absurd ((sourceCycle_status p s.takeTurn).symm.trans quits) stood
  | ebService i => exact absurd ((State.service_status s.takeTurn i).symm.trans quits) stood
  | stopSource | ea | ebIdle | efOn => exact absurd quits stood

/-- An engine inside the loop that does not stand before EF has not halted (rules R130, R137). -/
theorem State.running_of_inLoop {s : State} (inLoop : s.leftLoop = false) (p : s.phase ≠ .ef) : s.halted = false := by
  simpa [State.leftLoop, p] using inLoop

/-- A halted engine stands at EA or, after HLT alone, at EF (rules R137, R138; log entry 5). -/
def HaltedPhase (s : State) : Prop := s.halted = true → s.phase = .ea ∨ (s.phase = .ef ∧ s.status = .halt)

theorem haltedPhase_of_running {s : State} (running : s.halted = false) : HaltedPhase s :=
  fun halted => absurd (running.symm.trans halted) Bool.noConfusion

theorem haltedPhase_of_ea {s : State} (p : s.phase = .ea) : HaltedPhase s := fun _ => .inl p

/-- On a running machine an instruction halts with EA next on a fatal error, and with EF next on HLT. -/
theorem exec_haltedPhase {i : Instr} {s t : State} (run : exec i s = .next t) (p : s.phase = .ef)
    (running : s.halted = false) (status : s.status = .running) : HaltedPhase t := by
  rcases exec_faults_keeps_or_halts run with ⟨k, rfl⟩ | ⟨_, halted, _⟩ | ⟨phase, _, halts⟩
  · exact haltedPhase_of_ea rfl
  · exact haltedPhase_of_running (halted.trans running)
  · exact fun _ => .inr ⟨phase.trans p, halts.trans (RunStatus.settle_of_running _ status)⟩

theorem step_keeps_haltedPhase {s t : State} (h : step s = .next t)
    (together : s.halted = true ↔ s.status ≠ .running) (stands : HaltedPhase s) : HaltedPhase t := by
  cases step_cases h with
  | source p =>
    rw [HaltedPhase, sourceCycle_halted, sourceCycle_phase, sourceCycle_status]
    exact stands
  | stopSource => exact stands
  | ea _ inLoop p | ebIdle _ inLoop p =>
    have running := State.running_of_inLoop inLoop (by simp [p])
    exact haltedPhase_of_running running
  | ebService i _ inLoop p =>
    have running := State.running_of_inLoop inLoop (by simp [p])
    exact haltedPhase_of_running ((State.service_halted s.takeTurn i).trans running)
  | ex i _ _ inLoop p _ run =>
    have running := State.running_of_inLoop inLoop (by simp [p])
    have status : s.status = .running := by simpa [running] using together
    exact exec_haltedPhase run rfl running status
  | exUnimplemented | efQuit | efOn => exact haltedPhase_of_ea rfl

/-- Settles O55: field by field of the invariant. -/
theorem invariantKept : Obligations.InvariantKept := by
  intro s t inv h
  exact {
    memWf := step_memWf h inv.memWf
    tick := step_keeps_tick_lt h inv.tick
    haltedStatus := step_keeps_haltedStatus h inv.haltedStatus
    haltedPhase := step_keeps_haltedPhase h inv.haltedStatus inv.haltedPhase
    stopAfterLoop := step_keeps_stopAfterLoop h inv.stopAfterLoop
    quitRequested := step_keeps_quitRequested h inv.quitRequested
    ended := step_keeps_ended h inv.ended
    endedWhy := step_keeps_endedWhy h inv.endedWhy }

/-- Settles O56: each field at its reset value. -/
theorem invariantAtReset : Obligations.InvariantAtReset where
  memWf := Memory.wf_reset
  tick := by decide
  haltedStatus := by decide
  haltedPhase := by decide
  stopAfterLoop := by decide
  quitRequested := by decide
  ended := by decide
  endedWhy := by decide

end Sys2Proof.Machine
end

section
/-! The memory as canonical data (log entry 11): what it lists, and when two are equal. -/

namespace Sys2Proof.Machine

/-- A byte other than `MEM_FILL` is listed. -/
theorem Memory.mem_of_read {m : Memory} {a : Nat} (written : m.read a ≠ Config.memFill) : (a, m.read a) ∈ m := by
  induction m with
  | nil => exact absurd rfl written
  | cons c rest ih =>
    rw [Memory.read_cons] at written ⊢
    by_cases here : c.1 = a
    · subst here
      simp
    · rw [if_neg here] at written ⊢
      exact List.mem_cons_of_mem c (ih written)

/-- In a list of rising addresses a listed byte is the one that is read. -/
theorem Memory.read_of_mem {m : Memory} {c : Host.Cell} (rising : m.Pairwise (fun c d => c.1 < d.1)) (listed : c ∈ m) :
    m.read c.1 = c.2 := by
  induction m with
  | nil => simp at listed
  | cons d rest ih =>
    obtain ⟨above, rising⟩ := List.pairwise_cons.mp rising
    rcases List.mem_cons.mp listed with rfl | listed
    · exact if_pos rfl
    · rw [Memory.read_cons, if_neg (above c listed).ne, ih rising listed]

/-- What one canonical memory lists, another that reads alike lists too. -/
theorem Memory.mem_of_read_eq {m n : Memory} (canonical : m.wf) (same : ∀ a, a < 256 → m.read a = n.read a)
    {c : Host.Cell} (listed : c ∈ m) : c ∈ n := by
  obtain ⟨small, written⟩ := canonical.2 c listed
  have read : n.read c.1 = c.2 := (same c.1 small).symm.trans (Memory.read_of_mem canonical.1 listed)
  have found := Memory.mem_of_read (m := n) (a := c.1) (read ▸ written)
  rwa [read] at found

/-- Settles O34: both list the same bytes, in rising order of the address. -/
theorem canonicalMemoryIsUnique : Obligations.CanonicalMemoryIsUnique := by
  intro m n hm hn same
  have irreflexive : Std.Irrefl (fun c d : Host.Cell => c.1 < d.1) := ⟨fun c => Nat.lt_irrefl c.1⟩
  have antisymmetric : Std.Antisymm (fun c d : Host.Cell => c.1 < d.1) := ⟨fun _ _ lt gt => absurd gt lt.asymm⟩
  exact List.Pairwise.eq_of_mem_iff hm.1 hn.1 fun c =>
    ⟨Memory.mem_of_read_eq hm same, Memory.mem_of_read_eq hn fun a small => (same a small).symm⟩

/-- Settles O33: both sides are canonical and read alike. -/
theorem memoryWritesCommute : Obligations.MemoryWritesCommute := by
  refine fun m a b v w canonical ha hb => ⟨fun apart => ?commute, ?overwrite⟩
  case commute =>
    refine canonicalMemoryIsUnique _ _ (Memory.wf_write w hb (Memory.wf_write v ha canonical))
      (Memory.wf_write v ha (Memory.wf_write w hb canonical)) fun x _ => ?_
    simp only [Memory.read_write]
    by_cases isA : x = a
    · subst isA
      simp [apart]
    · simp [isA]
  case overwrite =>
    refine canonicalMemoryIsUnique _ _ (Memory.wf_write v ha (Memory.wf_write w ha canonical))
      (Memory.wf_write v ha canonical) fun x _ => ?_
    simp only [Memory.read_write]
    by_cases isA : x = a <;> simp [isA]

end Sys2Proof.Machine
end

section
/-! Bytes written downward from an address, as pushes leave them: many pushes and as many pops (rule R197), and the frame of
an interrupt (rules R311-R314). -/

namespace Sys2Proof

/-! ### Addresses -/

theorem wrap8_add (m n : Nat) : wrap8 (m + n) = wrap8 m + wrap8 n := BitVec.ofNat_add m n

/-- The address one and `n` below. -/
theorem sub_wrap8_succ (a : Byte) (n : Nat) : a - wrap8 (n + 1) = a - 1 - wrap8 n := by
  rw [wrap8_add, add_comm, sub_add_eq_sub_sub]
  rfl

/-- Up to 255 bytes below an address are not at it. -/
theorem sub_wrap8_ne (a : Byte) {n : Nat} (pos : 0 < n) (small : n < 256) : a - wrap8 n ≠ a := by
  intro same
  have zero : wrap8 n = 0 := sub_eq_self.mp same
  have none : n = 0 := by simpa [wrap8, Nat.mod_eq_of_lt small] using congrArg BitVec.toNat zero
  omega

/-- From `m + n` below an address, `n` up is `m` below. -/
theorem sub_wrap8_add_wrap8 (a : Byte) (m n : Nat) : a - wrap8 (m + n) + wrap8 n = a - wrap8 m := by
  rw [wrap8_add, sub_add_eq_sub_sub, sub_add_cancel]

end Sys2Proof

namespace Sys2Proof.Machine

/-! ### Bytes written downward -/

theorem read_writeDown_outside (m : Memory) (a : Byte) (vs : List Byte) {x : Byte}
    (outside : ∀ k < vs.length, x ≠ a - wrap8 (k + 1)) : (writeDown m a vs).read x.toNat = m.read x.toNat := by
  induction vs generalizing m a with
  | nil => rfl
  | cons v vs ih =>
    have first : x ≠ a - 1 := outside 0 (by simp)
    have others : ∀ k < vs.length, x ≠ a - 1 - wrap8 (k + 1) := fun k inside =>
      sub_wrap8_succ a (k + 1) ▸ outside (k + 1) (Nat.succ_lt_succ inside)
    rw [writeDown, ih _ _ others, Memory.read_write, if_neg (first ∘ BitVec.eq_of_toNat_eq)]

/-- Of up to 256 bytes written downward from below an address, each stands where it was written. -/
theorem read_writeDown (m : Memory) (a : Byte) {vs : List Byte} (fits : vs.length ≤ 256) {k : Nat}
    (inside : k < vs.length) : (writeDown m a vs).read (a - wrap8 (k + 1)).toNat = vs[k] := by
  induction vs generalizing m a k with
  | nil => simp at inside
  | cons v vs ih =>
    rw [List.length_cons] at fits inside
    cases k with
    | zero =>
      have kept : ∀ j < vs.length, a - 1 ≠ a - 1 - wrap8 (j + 1) := fun j below =>
        (sub_wrap8_ne _ (Nat.succ_pos j) (by omega)).symm
      have first : (writeDown (m.write (a - 1).toNat v) (a - 1) vs).read (a - 1).toNat = v := by
        rw [read_writeDown_outside _ _ _ kept, Memory.read_write, if_pos rfl]
      exact first
    | succ k =>
      rw [sub_wrap8_succ, writeDown]
      exact ih _ _ (by omega) (by omega)

/-! ### Many pushes and many pops -/

theorem State.reg_pushAll_sp (s : State) (vs : List Byte) : (s.pushAll vs).reg .r7 = s.reg .r7 - wrap8 vs.length := by
  induction vs generalizing s with
  | nil => exact (sub_zero _).symm
  | cons v vs ih => rw [State.pushAll, ih, State.reg_push_sp, List.length_cons, sub_wrap8_succ]

theorem State.pushAll_mem (s : State) (vs : List Byte) : (s.pushAll vs).mem = writeDown s.mem (s.reg .r7) vs := by
  induction vs generalizing s with
  | nil => rfl
  | cons v vs ih =>
    rw [State.pushAll, ih, State.reg_push_sp]
    rfl

theorem State.reg_popMany_sp (s : State) (n : Nat) : (s.popMany n).2.reg .r7 = s.reg .r7 + wrap8 n := by
  induction n generalizing s with
  | zero => exact (add_zero _).symm
  | succ n ih =>
    rw [State.popMany, ih, State.reg_pop_sp, add_comm n, wrap8_add, ← add_assoc]
    rfl

/-- Pops erase nothing (rule R191). -/
theorem State.popMany_mem (s : State) (n : Nat) : (s.popMany n).2.mem = s.mem := by
  induction n generalizing s with
  | zero => rfl
  | succ n ih => exact ih s.pop.2

/-- The popped bytes stand at SP and upward. -/
theorem State.popMany_values (s : State) (n : Nat) :
    (s.popMany n).1 = (List.range n).map fun k => s.readMem (s.reg .r7 + wrap8 k) := by
  induction n generalizing s with
  | zero => rfl
  | succ n ih =>
    have shift (k : Nat) : s.reg .r7 + 1 + wrap8 k = s.reg .r7 + wrap8 (k + 1) := by
      rw [add_comm k, wrap8_add, ← add_assoc]
      rfl
    have first : s.readMem (s.reg .r7 + wrap8 0) = s.pop.1 := congrArg s.readMem (add_zero _)
    simp only [State.popMany, ih, State.reg_pop_sp, State.pop_readMem, shift, List.range_succ_eq_map, List.map_cons,
      List.map_map, first]
    rfl

/-- Settles O24: SP moves by the count and back; the bytes pushed stand downward from SP, and are popped upward. -/
theorem manyPushesManyPops : Obligations.ManyPushesManyPops := by
  refine fun s vs => ⟨?sp, fun a => ?memory, fun fits => ?values⟩
  case sp => rw [State.reg_popMany_sp, State.reg_pushAll_sp, sub_add_cancel]
  case memory => simp only [State.readMem, State.popMany_mem]
  case values =>
    rw [State.popMany_values]
    refine List.ext_getElem (by simp) fun k inRange inReverse => ?_
    have below : k < vs.length := by simpa using inRange
    have split : vs.length - 1 - k + 1 + k = vs.length := by omega
    have address := sub_wrap8_add_wrap8 (s.reg .r7) (vs.length - 1 - k + 1) k
    rw [split] at address
    rw [List.getElem_map, List.getElem_range, List.getElem_reverse, State.reg_pushAll_sp, address, State.readMem,
      State.pushAll_mem, read_writeDown _ _ fits]

/-! ### The frame of an interrupt -/

theorem frameAddresses_eq (sp : Byte) : frameAddresses sp = (List.range 9).map fun k => sp - wrap8 (k + 1) := rfl

/-- The nine bytes of the frame stand below the old SP, first pushed first (rule R312). -/
theorem State.service_readMem_frame (s : State) (i : Fin 8) (k : Nat) (inside : k < (s.frameBytes i).length) :
    (s.service i).readMem (s.reg .r7 - wrap8 (k + 1)) = (s.frameBytes i)[k] := by
  rw [State.service_eq]
  exact read_writeDown s.mem s.regs.r7 (by simp [State.frameBytes]) inside

theorem irqBit_getLsbD (i : Fin 8) (k : Nat) : (irqBit i).getLsbD k = (k == i.val) := by
  have power : irqBit i = BitVec.twoPow 8 i.val := rfl
  rw [power, BitVec.getLsbD_twoPow, decide_eq_true i.isLt, Bool.true_and, beq_eq_decide]
  exact decide_eq_decide.mpr eq_comm

theorem State.service_r6 (s : State) (i : Fin 8) : (s.service i).reg .r6 = s.reg .r6 &&& ~~~ irqBit i := by
  rw [State.service_eq]
  rfl

/-- A service clears the serviced bit of IS and no other (rule R311). -/
theorem State.service_r6_getLsbD (s : State) (i : Fin 8) (k : Nat) :
    ((s.service i).reg .r6).getLsbD k = ((s.reg .r6).getLsbD k && k != i.val) := by
  rw [State.service_r6, BitVec.getLsbD_and, BitVec.getLsbD_not, irqBit_getLsbD]
  by_cases inByte : k < 8
  · simp [inByte]
    rfl
  · simp [BitVec.getLsbD_of_ge _ _ (Nat.le_of_not_lt inByte)]

theorem State.reg_service_sp (s : State) (i : Fin 8) : (s.service i).reg .r7 = s.reg .r7 - 9 := by
  rw [State.service_eq]
  rfl

theorem sameRegsBut_service (s : State) (i : Fin 8) : SameRegsBut [.r6, .r7] s (s.service i) := by
  intro q other
  rw [State.service_eq]
  cases q with
  | r6 | r7 => simp at other
  | _ => rfl

/-- The PC after a service is the byte in the vector slot as the pushes have left it (rule R313). -/
theorem State.service_pc (s : State) (i : Fin 8) : (s.service i).pc = (s.service i).readMem (wrap8 (0xF8 + i.val)) := by
  rw [State.service_eq, wrap8_add]
  rfl

/-- Settles O39: the frame's nine bytes, and a service's effect field by field. -/
theorem interruptFrame : Obligations.InterruptFrame := by
  intro s i
  have frame := s.service_readMem_frame i
  have length : (s.frameBytes i).length = 9 := rfl
  refine ⟨_, rfl, frame 0 ?_, ?fl, frame 2 ?_, frame 3 ?_, frame 4 ?_, frame 5 ?_, frame 6 ?_, frame 7 ?_, ?is,
    s.service_r6_getLsbD i, s.reg_service_sp i, sameRegsBut_service s i, fun _ => s.service_readMem_outside i,
    s.service_ie i, s.service_pc i, s.service_fl i, s.service_out i, s.service_ir i, s.service_halted i,
    s.service_status i, ?source⟩
  case fl =>
    have pushed : (s.service i).readMem (s.reg .r7 - 2) = flByte s.fl := frame 1 (by omega)
    rw [pushed]
    exact BitVec.toNat_setWidth_of_le (by decide)
  case is => exact (frame 8 (by omega)).trans (s.service_r6 i).symm
  case source => constructor <;> simp
  all_goals omega

/-! ### Return from an interrupt -/

/-- Over an intact frame, the bytes from SP upward are the frame's, last pushed first (rule R314). -/
theorem readMem_of_intact_frame {s u : State} {i : Fin 8} (sp : u.reg .r7 = (s.service i).reg .r7)
    (intact : ∀ a ∈ frameAddresses (s.reg .r7), u.readMem a = (s.service i).readMem a) (k n : Nat)
    (inside : k < (s.frameBytes i).length) (nine : k + 1 + n = 9) :
    u.readMem (u.reg .r7 + wrap8 n) = (s.frameBytes i)[k] := by
  have address : u.reg .r7 + wrap8 n = s.reg .r7 - wrap8 (k + 1) := by
    rw [sp, State.reg_service_sp, ← sub_wrap8_add_wrap8 _ _ n, nine]
    rfl
  have inFrame : s.reg .r7 - wrap8 (k + 1) ∈ frameAddresses (s.reg .r7) := by
    rw [frameAddresses_eq]
    exact List.mem_map.mpr ⟨k, List.mem_range.mpr inside, rfl⟩
  rw [address, intact _ inFrame, State.service_readMem_frame s i k inside]

theorem flOfByte_flByte (fl : BitVec 3) : flOfByte (flByte fl) = fl :=
  BitVec.setWidth_setWidth_of_le fl (by decide)

/-- Settles O40: IRET pops what the frame holds, and SP rises by the nine it fell. -/
theorem returnUndoesService : Obligations.ReturnUndoesService := by
  intro s i u sp intact
  have popped := readMem_of_intact_frame sp intact
  have length : (s.frameBytes i).length = 9 := rfl
  refine ⟨_, rfl, fun q other => ?regs, ?is, ?fl, ?pc, u.returnFromInterrupt_ie, u.returnFromInterrupt_readMem⟩
  all_goals rw [State.returnFromInterrupt_eq]
  case regs =>
    cases q with
    | r0 => exact popped 2 6 (by omega) rfl
    | r1 => exact popped 3 5 (by omega) rfl
    | r2 => exact popped 4 4 (by omega) rfl
    | r3 => exact popped 5 3 (by omega) rfl
    | r4 => exact popped 6 2 (by omega) rfl
    | r5 => exact popped 7 1 (by omega) rfl
    | r6 => simp at other
    | r7 =>
      have raised : u.reg .r7 + 9 = s.reg .r7 := by rw [sp, State.reg_service_sp, sub_add_cancel]
      exact raised
  case is =>
    rw [State.service_r6]
    exact (congrArg u.readMem (add_zero (u.reg .r7))).symm.trans (popped 8 0 (by omega) rfl)
  case fl =>
    have byte : u.readMem (u.reg .r7 + 7) = flByte s.fl := popped 1 7 (by omega) rfl
    exact (congrArg flOfByte byte).trans (flOfByte_flByte s.fl)
  case pc => exact popped 0 8 (by omega) rfl

end Sys2Proof.Machine
end

section
/-! The timer part and the end of the Interrupt Source's task (rules R320, R322, R323, R327, R328). -/

namespace Sys2Proof.Machine

/-! ### The timer -/

/-- In a cycle of a source not asked to stop the tick is one higher modulo the poll rate (rule R322). -/
theorem sourceCycle_tick_of_polls (p : Poll) {s : State} (polls : s.srcStop = false) :
    (sourceCycle p s).tick = (s.tick + 1) % s.params.pollRate := by
  rw [sourceCycle_tick, if_neg (by simp [polls])]

/-- A cycle raises the timer interrupt exactly on a wrap of the tick, if it is permitted (rule R322). -/
theorem sourceBits_getLsbD_zero (p : Poll) {s : State} (polls : s.srcStop = false) :
    (sourceBits p s).getLsbD 0 =
      (decide ((s.tick + 1) % s.params.pollRate = 0) && s.ie && (s.reg .r5).getLsbD 0) := by
  rw [sourceBits_getLsbD, polls]
  cases p <;> simp

/-- Many cycles count as many ticks. -/
theorem sourceCycles_tick (ps : List Poll) {s : State} (polls : s.srcStop = false) (below : s.tick < s.params.pollRate) :
    (sourceCycles ps s).tick = (s.tick + ps.length) % s.params.pollRate := by
  induction ps generalizing s with
  | nil => exact (Nat.mod_eq_of_lt below).symm
  | cons p ps ih =>
    have counted := sourceCycle_tick_of_polls p polls
    have stillBelow : (sourceCycle p s).tick < (sourceCycle p s).params.pollRate := by
      rw [counted, sourceCycle_params]
      exact Nat.mod_lt _ (Nat.zero_lt_of_lt below)
    rw [sourceCycles, ih ((sourceCycle_srcStop p s).trans polls) stillBelow, counted, sourceCycle_params,
      Nat.mod_add_mod, List.length_cons, add_assoc, add_comm 1]

/-- Settles O45: the tick of one cycle and, by induction, of many; IS bit 0 by the bit that a wrap sets. -/
theorem timerPartRule : Obligations.TimerPart := by
  refine ⟨fun s p polls => ⟨sourceCycle_tick_of_polls p polls, ?_⟩, fun ps _ => sourceCycles_tick ps⟩
  rw [sourceCycle_r6_getLsbD, sourceBits_getLsbD_zero p polls]

/-! ### The end of the task -/

/-- A failed poll has the effect of no key (rule R328). -/
theorem sourceCycle_failed (s : State) : sourceCycle .failed s = sourceCycle .noKey s := rfl

/-- Settles O46: `term_req` and `src_live` after a cycle, by the poll and `src_stop`. -/
theorem quitStopAndFailedPoll : Obligations.QuitStopAndFailedPoll := by
  refine ⟨fun s polls => ⟨?requests, ?ends⟩, fun s p other => ⟨?keepsRequest, fun polls => ?staysLive⟩,
    sourceCycle_failed, fun s p stop => if_pos stop⟩
  case requests => simp [sourceCycle_termReq, polls]
  case ends => simp [sourceCycle_srcLive]
  case keepsRequest => simp [sourceCycle_termReq, other]
  case staysLive => simp [sourceCycle_srcLive, other, polls]

end Sys2Proof.Machine
end

section
/-! What the engine does not read (rules R37, R42, R44): every engine action commutes with a change of the tick, of
`last_key` and of IR, as far as it does not write the field itself. -/

namespace Sys2Proof.Machine

/-- The state with IR, `last_key` and the tick each changed by a function. -/
def State.mapHidden (fir fkey : Byte → Byte) (ftick : Nat → Nat) (s : State) : State :=
  { s with ir := fir s.ir, lastKey := fkey s.lastKey, tick := ftick s.tick }

section

variable {fir fkey : Byte → Byte} {ftick : Nat → Nat}

/-! ### Instructions -/

theorem invalidRegister_mapHidden (s : State) (b : Byte) :
    invalidRegister (s.mapHidden id fkey ftick) b = (invalidRegister s b).mapHidden id fkey ftick := rfl

/-- One register operand: only the record of an `InvalidRegister` fault reads IR. -/
theorem withReg_mapHidden {s : State} {ra : Byte} {k k' : Reg → State} (unread : fir = id ∨ isRegister ra = true)
    (good : ∀ a, k' a = (k a).mapHidden fir fkey ftick) :
    withReg (s.mapHidden fir fkey ftick) ra k' = (withReg s ra k).mapHidden fir fkey ftick := by
  rcases withReg_cases s ra k with ⟨bad, faults⟩ | ⟨a, rfl, goesOn⟩
  · obtain rfl : fir = id := by simpa [bad] using unread
    rw [faults, withReg_bad _ bad, invalidRegister_mapHidden]
  · rw [goesOn, withReg_operand, good]

theorem withRegs_mapHidden {s : State} {ra rb : Byte} {k k' : Reg → Reg → State}
    (unread : fir = id ∨ (isRegister ra && isRegister rb) = true)
    (good : ∀ a b, k' a b = (k a b).mapHidden fir fkey ftick) :
    withRegs (s.mapHidden fir fkey ftick) ra rb k' = (withRegs s ra rb k).mapHidden fir fkey ftick := by
  rw [Bool.and_eq_true] at unread
  exact withReg_mapHidden (unread.imp_right And.left) fun a =>
    withReg_mapHidden (unread.imp_right And.right) (good a)

/-- DIV and MOD read the divisor and the PC besides. -/
theorem aluDivision_mapHidden (op : DivisionOp) (f : Byte → Byte → Byte) {s : State} {ra rb : Byte}
    (unread : fir = id ∨ (isRegister ra && isRegister rb) = true) :
    aluDivision op f ra rb (s.mapHidden fir fkey ftick) = (aluDivision op f ra rb s).mapHidden fir fkey ftick := by
  refine withRegs_mapHidden unread fun a b => ?_
  by_cases zero : s.reg b = 0
  · rw [if_pos zero]
    exact if_pos zero
  · rw [if_neg zero]
    exact if_neg zero

theorem returnFromInterrupt_mapHidden (s : State) :
    (s.mapHidden fir fkey ftick).returnFromInterrupt = s.returnFromInterrupt.mapHidden fir fkey ftick := by
  rw [State.returnFromInterrupt_eq, State.returnFromInterrupt_eq]
  rfl

/-- No instruction reads the tick or `last_key`, and none whose registers exist reads IR (rules R37, R108). -/
theorem exec_mapHidden {i : Instr} (s : State) (unread : fir = id ∨ i.wellFormed = true) :
    exec i (s.mapHidden fir fkey ftick) = mapNext (State.mapHidden fir fkey ftick) (exec i s) := by
  simp only [Instr.wellFormed, Instr.registerOperands] at unread
  cases i with
  | hlt | ret => rfl
  | iret => exact congrArg Host.Outcome.next (returnFromInterrupt_mapHidden s)
  | push | pop | prn | pra | call | jmp | jeq | jne | jgt | jlt | jle | jge | inc | dec | not | ldi =>
    exact congrArg Host.Outcome.next (withReg_mapHidden (by simpa using unread) fun _ => rfl)
  | ld | st | add | sub | mul | cmp | and | or | xor | shl | shr =>
    exact congrArg Host.Outcome.next (withRegs_mapHidden (by simpa using unread) fun _ _ => rfl)
  | div | mod => exact congrArg Host.Outcome.next (aluDivision_mapHidden _ _ (by simpa using unread))

/-! ### The engine's actions -/

theorem service_mapHidden (s : State) (i : Fin 8) :
    (s.mapHidden id fkey ftick).service i = (s.service i).mapHidden id fkey ftick := by
  rw [State.service_eq, State.service_eq]
  rfl

theorem actionEB_mapHidden (s : State) :
    actionEB (s.mapHidden id fkey ftick) = (actionEB s).mapHidden id fkey ftick := by
  have same : (s.mapHidden id fkey ftick).serviced = s.serviced := rfl
  cases serviced : s.serviced with
  | none => rw [actionEB_of_none serviced, actionEB_of_none (same.trans serviced)]; rfl
  | some i => rw [actionEB_of_some serviced, actionEB_of_some (same.trans serviced), service_mapHidden]; rfl

theorem actionEX_mapHidden (s : State) :
    actionEX (s.mapHidden id fkey ftick) = mapNext (State.mapHidden id fkey ftick) (actionEX s) := by
  have same : (s.mapHidden id fkey ftick).fetched = s.fetched := rfl
  unfold actionEX
  rw [same]
  cases s.fetched with
  | none => rfl
  | some i => exact exec_mapHidden s.fetchOpcode (.inl rfl)

theorem actionEF_mapHidden (s : State) :
    actionEF (s.mapHidden id fkey ftick) = (actionEF s).mapHidden id fkey ftick := by
  have same : (s.mapHidden id fkey ftick).termReq = s.termReq := rfl
  cases request : s.termReq with
  | true => rw [actionEF_of_request request, actionEF_of_request (same.trans request)]; rfl
  | false => rw [actionEF_of_noRequest request, actionEF_of_noRequest (same.trans request)]; rfl

/-- No move of the engine reads the tick, and EA alone reads `last_key` (rules R42, R44, R132). -/
theorem engineStep_mapHidden (s : State) (unread : fkey = id ∨ s.phase ≠ .ea ∨ s.leftLoop = true) :
    engineStep (s.mapHidden id fkey ftick) = mapNext (State.mapHidden id fkey ftick) (engineStep s) := by
  have sameLoop : (s.mapHidden id fkey ftick).leftLoop = s.leftLoop := rfl
  cases left : s.leftLoop with
  | true =>
    rw [engineStep, engineStep, if_pos left, if_pos (sameLoop.trans left)]
    rfl
  | false =>
    have inLoop := sameLoop.trans left
    cases p : s.phase with
    | ea =>
      obtain rfl : fkey = id := by simpa [left, p] using unread
      rw [engineStep_of_ea left p, engineStep_of_ea inLoop p]
      rfl
    | eb =>
      rw [engineStep_of_eb left p, engineStep_of_eb inLoop p, actionEB_mapHidden]
      rfl
    | ex => rw [engineStep_of_ex left p, engineStep_of_ex inLoop p, actionEX_mapHidden]
    | ef =>
      rw [engineStep_of_ef p, engineStep_of_ef (s := s.mapHidden id fkey ftick) p, actionEF_mapHidden]
      rfl

end

/-- Settles O48: each of the three changes is a `mapHidden`. -/
theorem hiddenStateNotRead : Obligations.HiddenStateNotRead :=
  ⟨fun s n => engineStep_mapHidden (fkey := id) (ftick := fun _ => n) s (.inl rfl),
    fun s k unread => engineStep_mapHidden (fkey := fun _ => k) (ftick := id) s (.inr unread),
    fun _ s x registers => exec_mapHidden (fir := fun _ => x) (fkey := id) (ftick := id) s (.inr registers)⟩

end Sys2Proof.Machine
end

section
/-! The writers of FL, of `ie` and of memory (rules R39, R40, R48). -/

namespace Sys2Proof.Machine

/-! ### FL -/

/-- CMP and IRET alone write FL (rule R39). -/
theorem exec_fl {i : Instr} {s t : State} (run : exec i s = .next t) :
    t.fl = s.fl ∨ (∃ ra rb, i = .cmp ra rb) ∨ i = .iret := by
  cases exec_effect run with
  | compare a b e => exact .inr (.inl ⟨a.operand, b.operand, e⟩)
  | iret e => exact .inr (.inr e)
  | _ => exact .inl rfl

/-- Settles O49: of the cases of a step, EX of CMP or IRET alone writes FL. -/
theorem flagWriters : Obligations.FlagWriters := by
  intro s t h changed
  cases step_cases h with
  | ex i _ m _ p fetched run =>
    rw [fetched]
    rcases exec_fl run with kept | ⟨ra, rb, rfl⟩ | rfl
    · exact absurd kept changed
    · exact ⟨m, p, .inl ⟨ra, rb, rfl⟩⟩
    · exact ⟨m, p, .inr rfl⟩
  | source p => exact absurd (sourceCycle_fl p s.takeTurn) changed
  | ebService i => exact absurd (State.service_fl s.takeTurn i) changed
  | _ => exact absurd rfl changed

/-! ### `ie` -/

/-- IRET alone writes `ie`, and sets it (rule R40). -/
theorem exec_ie {i : Instr} {s t : State} (run : exec i s = .next t) : t.ie = s.ie ∨ (i = .iret ∧ t.ie = true) := by
  cases exec_effect run with
  | iret e => exact .inr ⟨e, s.returnFromInterrupt_ie⟩
  | _ => exact .inl rfl

/-- A step keeps `ie`, or it is a service, which clears it, or EX of IRET, which sets it. -/
theorem step_ie {s t : State} (h : step s = .next t) :
    t.ie = s.ie ∨
      (t.ie = false ∧ s.mover = some .engine ∧ s.phase = .eb ∧ s.serviced.isSome = true) ∨
      (t.ie = true ∧ s.mover = some .engine ∧ s.phase = .ex ∧ s.fetched = some .iret) := by
  cases step_cases h with
  | ex i _ m _ p fetched run =>
    rcases exec_ie run with kept | ⟨rfl, sets⟩
    · exact .inl kept
    · exact .inr (.inr ⟨sets, m, p, fetched⟩)
  | ebService i m _ p serviced =>
    exact .inr (.inl ⟨State.service_ie s.takeTurn i, m, p, Option.isSome_of_eq_some serviced⟩)
  | source p => exact .inl (sourceCycle_ie p s.takeTurn)
  | _ => exact .inl rfl

/-- Settles O50: the two writers of `ie` write different values. -/
theorem interruptEnableWriters : Obligations.InterruptEnableWriters := by
  intro s t h
  rcases step_ie h with kept | ⟨clears, service⟩ | ⟨sets, iret⟩
  · cases before : s.ie <;> simp [kept, before]
  · simp [clears, service]
  · simp [sets, iret]

/-! ### Memory -/

/-- ST, PUSH and CALL alone write memory, at the address they compute (rules R242, R192, R194). -/
theorem exec_readMem_of_not_stores {i : Instr} {s t : State} {a : Byte} (run : exec i s = .next t)
    (elsewhere : a ∉ i.stores s) : t.readMem a = s.readMem a := by
  cases exec_effect run with
  | store r q e =>
    have other : a ≠ s.reg r := by simpa [e, Instr.stores] using elsewhere
    exact State.readMem_writeMem_ne s _ _ other
  | push r e =>
    have other : a ≠ s.reg .r7 - 1 := by simpa [e, Instr.stores] using elsewhere
    exact (State.readMem_pushReg s r a).trans (if_neg other)
  | call r e =>
    have other : a ≠ s.reg .r7 - 1 := by simpa [e, Instr.stores] using elsewhere
    exact (State.readMem_push s _ a).trans (if_neg other)
  | iret => exact State.returnFromInterrupt_readMem s a
  | _ => rfl

/-- Settles O54: of the cases of a step, EA, a service and EX write memory, each at its own addresses. -/
theorem memoryWriters : Obligations.MemoryWriters := by
  intro s t a h changed
  cases step_cases h with
  | ea m _ p =>
    refine ⟨m, .inl ⟨p, ?_⟩⟩
    by_contra other
    exact changed (State.readMem_writeMem_ne s.takeTurn keyMirror s.lastKey other)
  | ebService i m _ p serviced =>
    refine ⟨m, .inr (.inl ⟨p, Option.isSome_of_eq_some serviced, ?_⟩)⟩
    by_contra outside
    exact changed (State.service_readMem_outside s.takeTurn i outside)
  | ex i _ m _ p fetched run =>
    refine ⟨m, .inr (.inr ⟨p, i, fetched, ?_⟩)⟩
    by_contra elsewhere
    exact changed (exec_readMem_of_not_stores (s := s.takeTurn.fetchOpcode) run elsewhere)
  | source p => exact absurd (sourceCycle_readMem p s.takeTurn a) changed
  | _ => exact absurd rfl changed

end Sys2Proof.Machine
end

section
/-! Reset, `load` and the start of a run (rules R15, R18, R350, R353). -/

namespace Sys2Proof.Machine

/-- An image that fits is copied to address 0 (rule R15). -/
theorem load_of_fits {image : List Byte} (fits : image.length ≤ 256) (s : State) :
    load image s = .next { s with mem := s.mem.writeAll 0 image } :=
  if_pos fits

/-- A machine that has not halted starts its run with a fresh source, at EA (rules R18, R327). -/
theorem startRun_of_running {s : State} (running : s.halted = false) :
    startRun s = { s with tick := 0, termReq := false, srcStop := false, srcLive := true, phase := .ea } := by
  simp [startRun, running]

/-- Settles O58: `load` by the length of the image, the start of a run by `halted`. -/
theorem loadAndRun : Obligations.LoadAndRun := by
  refine ⟨fun image s fits => ⟨_, load_of_fits fits s, fun a => ?image, fun _ _ => rfl, rfl, rfl, rfl,
      ⟨rfl, rfl, rfl, rfl, rfl, ⟨rfl, rfl, rfl, rfl, rfl, rfl, rfl, rfl⟩⟩⟩,
    fun image s tooLong => if_neg (Nat.not_le_of_lt tooLong), fun s halted => if_pos halted, fun s running => ?starts,
    rfl⟩
  case image => simp [State.readMem, Memory.read_writeAll]
  case starts =>
    rw [startRun_of_running running]
    exact ⟨rfl, rfl, rfl, rfl, rfl, fun _ _ => rfl, fun _ => rfl, rfl, rfl⟩

/-- Settles O57: each field at its reset value. -/
theorem resetState : Obligations.ResetState := by
  refine ⟨fun r other => ?registers, rfl, rfl, rfl, rfl, rfl, rfl, rfl, rfl, rfl, rfl, rfl, rfl, fun _ => rfl, rfl, rfl,
    rfl, rfl⟩
  cases r with
  | r7 => exact absurd rfl other
  | _ => rfl

end Sys2Proof.Machine
end

section
/-! Register operands (rule R108), and the instructions on existing registers: shifts, LD, ST, PRN and PRA, PUSH, POP, CALL
and IRET. -/

namespace Sys2Proof.Machine

/-! ### Register operands -/

/-- A byte names a register exactly if it is that register's operand byte (rule R108). -/
theorem regIdx_eq_some_iff {b : Byte} {r : Reg} : regIdx b = some r ↔ b = r.operand := by
  constructor
  · intro named
    cases good : isRegister b with
    | false => cases (regIdx_of_bad good).symm.trans named
    | true =>
      obtain ⟨q, rfl⟩ := exists_operand good
      obtain rfl : q = r := Option.some.inj ((regIdx_operand q).symm.trans named)
      rfl
  · rintro rfl
    exact regIdx_operand r

theorem isRegister_iff {b : Byte} : isRegister b = true ↔ b.toNat ≤ 7 := decide_eq_true_iff

/-- A byte names no register exactly if it is above 7 (rule R108). -/
theorem regIdx_eq_none_iff {b : Byte} : regIdx b = none ↔ 7 < b.toNat := by
  constructor
  · intro unnamed
    by_contra small
    obtain ⟨r, rfl⟩ := exists_operand (isRegister_iff.mpr (Nat.le_of_not_lt small))
    cases (regIdx_operand r).symm.trans unnamed
  · intro high
    exact regIdx_of_bad (decide_eq_false (Nat.not_le_of_lt high))

/-- Settles O2: a byte up to 7 is a register's operand byte, and no other byte is. -/
theorem registerOperandNamesRegister : Obligations.RegisterOperandNamesRegister :=
  ⟨fun _ _ => regIdx_eq_some_iff, fun _ => regIdx_eq_none_iff, fun _ => isRegister_iff⟩

/-! ### The order of faults -/

/-- DIV and MOD fault on a first operand byte above 7, whatever the second (rule R305). -/
theorem faultStop_aluDivision_first (op : DivisionOp) (f : Byte → Byte → Byte) (s : State) {ra : Byte} (rb : Byte)
    (high : 7 < ra.toNat) : FaultStop (.invalidRegister s.ir s.pc ra) s (aluDivision op f ra rb s) := by
  have bad : isRegister ra = false := decide_eq_false (Nat.not_le_of_lt high)
  rw [aluDivision, withRegs_bad_first s rb bad]
  exact faultStop_invalidRegister s ra

/-- DIV and MOD fault on a second operand byte above 7, whatever the divisor (rule R305). -/
theorem faultStop_aluDivision_second (op : DivisionOp) (f : Byte → Byte → Byte) (s : State) (a : Reg) {rb : Byte}
    (high : 7 < rb.toNat) : FaultStop (.invalidRegister s.ir s.pc rb) s (aluDivision op f a.operand rb s) := by
  have bad : isRegister rb = false := decide_eq_false (Nat.not_le_of_lt high)
  rw [aluDivision, withRegs_bad_second s a bad]
  exact faultStop_invalidRegister s rb

/-- DIV and MOD fault on a divisor of 0 (rule R305). -/
theorem faultStop_aluDivision_zero (op : DivisionOp) (f : Byte → Byte → Byte) (s : State) (a : Reg) {b : Reg}
    (zero : s.reg b = 0) : FaultStop (.divisionByZero op s.pc) s (aluDivision op f a.operand b.operand s) := by
  rw [aluDivision_of_eq_zero op f a zero]
  exact faultStop_raiseFault _ s

/-- Settles O10: DIV and MOD are one form, whose checks fault in order. -/
theorem faultOrder : Obligations.FaultOrder :=
  ⟨fun s _ rb high => ⟨⟨_, rfl, faultStop_aluDivision_first .div _ s rb high⟩,
      ⟨_, rfl, faultStop_aluDivision_first .mod _ s rb high⟩⟩,
    fun s a _ high => ⟨⟨_, rfl, faultStop_aluDivision_second .div _ s a high⟩,
      ⟨_, rfl, faultStop_aluDivision_second .mod _ s a high⟩⟩,
    fun s a _ zero => ⟨⟨_, rfl, faultStop_aluDivision_zero .div _ s a zero⟩,
      ⟨_, rfl, faultStop_aluDivision_zero .mod _ s a zero⟩⟩⟩

/-! ### Shifts -/

/-- A true left shift multiplies by a power of two modulo 256, so that a count of 8 or more gives 0 (rule R167). -/
theorem shlValue_intended (p q : Byte) :
    shlValue .intended p q = wrap8 (p.toNat * 2 ^ q.toNat) ∧ (8 ≤ q.toNat → shlValue .intended p q = 0) := by
  refine ⟨BitVec.eq_of_toNat_eq ?_, BitVec.shiftLeft_eq_zero⟩
  simp [shlValue, wrap8, Nat.shiftLeft_eq]

/-- A true right shift divides by a power of two, so that a count of 8 or more gives 0 (rule R168). -/
theorem shrValue_intended (p q : Byte) :
    (shrValue .intended p q).toNat = p.toNat / 2 ^ q.toNat ∧ (8 ≤ q.toNat → shrValue .intended p q = 0) := by
  refine ⟨?_, BitVec.ushiftRight_eq_zero⟩
  simp [shrValue, Nat.shiftRight_eq_div_pow]

/-- Settles O15: the two shift values, in each mode. -/
theorem shiftsInBothModes : Obligations.ShiftsInBothModes := by
  refine ⟨binaryRule_of_aluBinary (fun s => shlValue s.params.shiftSemantics) rfl (fun _ _ => rfl) (fun _ _ _ => rfl)
      fun s p q => ⟨fun mode => ?left, fun mode => ?leftAnd⟩,
    binaryRule_of_aluBinary (fun s => shrValue s.params.shiftSemantics) rfl (fun _ _ => rfl) (fun _ _ _ => rfl)
      fun s p q => ⟨fun mode => ?right, fun mode => ?rightAnd⟩⟩
  all_goals rw [mode]
  case left => exact shlValue_intended p q
  case leftAnd => rfl
  case right => exact shrValue_intended p q
  case rightAnd => rfl

/-! ### LD and ST -/

theorem exec_ld_operand (a b : Reg) (s : State) :
    exec (.ld a.operand b.operand) s = .next ((s.setReg a (s.readMem (s.reg b))).advance 2) :=
  congrArg _ (withRegs_operand s a b _)

/-- Settles O29: LD writes its first register and the PC alone. -/
theorem loadFromMemory : Obligations.LoadFromMemory :=
  ⟨decode_of_f2RR rfl, fun s a b => ⟨_, exec_ld_operand a b s, writesOnly_setReg_advance s a _ 2⟩,
    fun _ _ => rejectsBadOperand_of_withRegs rfl fun _ => ⟨_, rfl⟩⟩

theorem exec_st_operand (a b : Reg) (s : State) :
    exec (.st a.operand b.operand) s = .next ((s.writeMem (s.reg a) (s.reg b)).advance 2) :=
  congrArg _ (withRegs_operand s a b _)

/-- Settles O30: ST writes one byte and the PC alone. -/
theorem storeToMemory : Obligations.StoreToMemory :=
  ⟨decode_of_f2RR rfl,
    fun s a b => ⟨_, exec_st_operand a b s, State.readMem_writeMem_self s _ _,
      fun _ other => State.readMem_writeMem_ne s _ _ (List.ne_of_not_mem_cons other), fun _ _ => rfl, rfl, rfl, rfl,
      ⟨rfl, rfl, rfl, rfl, rfl, ⟨rfl, rfl, rfl, rfl, rfl, rfl, rfl, rfl⟩⟩⟩,
    fun _ _ => rejectsBadOperand_of_withRegs rfl fun _ => ⟨_, rfl⟩⟩

/-! ### PRN and PRA -/

theorem exec_prn_operand (a : Reg) (s : State) :
    exec (.prn a.operand) s = .next ((s.emit (.num (s.reg a))).advance 1) :=
  congrArg _ (withReg_operand s a _)

theorem exec_pra_operand (a : Reg) (s : State) :
    exec (.pra a.operand) s = .next ((s.emit (.char (s.reg a))).advance 1) :=
  congrArg _ (withReg_operand s a _)

theorem sameControl_emit_advance (s : State) (e : OutEvent) (n : Nat) : SameControl s ((s.emit e).advance n) :=
  ⟨rfl, rfl, rfl, rfl, rfl, ⟨rfl, rfl, rfl, rfl, rfl, rfl, rfl, rfl⟩⟩

/-- Settles O31: PRN and PRA append their event and write the PC, and nothing else. -/
theorem printEmitsEvent : Obligations.PrintEmitsEvent :=
  ⟨fun ra => ⟨decode_of_f1R rfl ra, decode_of_f1R rfl ra⟩,
    fun s a => ⟨_, _, exec_prn_operand a s, exec_pra_operand a s,
      rfl, rfl, fun _ _ => rfl, fun _ => rfl, rfl, sameControl_emit_advance s _ 1,
      rfl, rfl, fun _ _ => rfl, fun _ => rfl, rfl, sameControl_emit_advance s _ 1⟩,
    fun _ => ⟨rejectsBadOperand_of_withReg rfl fun _ => ⟨_, rfl⟩,
      rejectsBadOperand_of_withReg rfl fun _ => ⟨_, rfl⟩⟩⟩

/-! ### PUSH, POP and CALL -/

theorem exec_push_operand (a : Reg) (s : State) : exec (.push a.operand) s = .next ((s.pushReg a).advance 1) :=
  congrArg _ (withReg_operand s a _)

theorem exec_pop_operand (a : Reg) (s : State) : exec (.pop a.operand) s = .next ((s.popReg a).advance 1) :=
  congrArg _ (withReg_operand s a _)

theorem exec_call_operand (a : Reg) (s : State) :
    exec (.call a.operand) s = .next ((s.push (s.pc + 2)).setPc (s.reg a)) :=
  congrArg _ (withReg_operand s a _)

/-- Push stores its value one below the old SP (rule R190). -/
theorem State.readMem_push_below (s : State) (v : Byte) : (s.push v).readMem (s.reg .r7 - 1) = v :=
  (s.readMem_push v _).trans (if_pos rfl)

theorem sameMemBut_push_below (s : State) (v : Byte) : SameMemBut [s.reg .r7 - 1] s (s.push v) :=
  fun x other => (s.readMem_push v x).trans (if_neg (List.ne_of_not_mem_cons other))

/-- Settles O18: PUSH is a Push of the register's old value, and the PC advance. -/
theorem pushStores : Obligations.PushStores :=
  ⟨decode_of_f1R rfl,
    fun s a => ⟨_, exec_push_operand a s, s.reg_push_sp (s.reg a),
      s.readMem_push_below (s.reg a), sameRegsBut_push s (s.reg a), sameMemBut_push_below s (s.reg a),
      rfl, rfl, rfl, (sameControl_push s (s.reg a)).setPc _⟩,
    fun _ => rejectsBadOperand_of_withReg rfl fun _ => ⟨_, rfl⟩⟩

theorem State.reg_popReg_self (s : State) (a : Reg) : (s.popReg a).reg a = s.readMem (s.reg .r7) :=
  (s.reg_popReg a a).trans (if_pos rfl)

theorem State.reg_popReg_sp (s : State) {a : Reg} (other : a ≠ .r7) : (s.popReg a).reg .r7 = s.reg .r7 + 1 := by
  rw [State.reg_popReg, if_neg other.symm, if_pos rfl]

theorem sameRegsBut_popReg (s : State) (a : Reg) : SameRegsBut [a, .r7] s (s.popReg a) := by
  intro q other
  obtain ⟨notA, notSp⟩ : q ≠ a ∧ q ≠ .r7 := by simpa using other
  rw [State.reg_popReg, if_neg notA, if_neg notSp]

theorem sameControl_popReg (s : State) (a : Reg) : SameControl s (s.popReg a) :=
  ⟨rfl, rfl, rfl, rfl, rfl, ⟨rfl, rfl, rfl, rfl, rfl, rfl, rfl, rfl⟩⟩

/-- Settles O19: POP is a Pop into the register, written last, and the PC advance. -/
theorem popLoads : Obligations.PopLoads :=
  ⟨decode_of_f1R rfl,
    fun s a => ⟨_, exec_pop_operand a s, s.reg_popReg_self a, fun other => s.reg_popReg_sp other,
      sameRegsBut_popReg s a, s.popReg_readMem a, rfl, rfl, rfl, (sameControl_popReg s a).setPc _⟩,
    fun _ => rejectsBadOperand_of_withReg rfl fun _ => ⟨_, rfl⟩⟩

/-- Settles O20: CALL is a Push of the next instruction's address, and a write of the PC. -/
theorem callPushesReturn : Obligations.CallPushesReturn :=
  ⟨decode_of_f1R rfl,
    fun s a => ⟨_, exec_call_operand a s, rfl, s.reg_push_sp (s.pc + 2),
      s.readMem_push_below (s.pc + 2), sameRegsBut_push s (s.pc + 2), sameMemBut_push_below s (s.pc + 2),
      rfl, rfl, (sameControl_push s (s.pc + 2)).setPc _⟩,
    fun _ => rejectsBadOperand_of_withReg rfl fun _ => ⟨_, rfl⟩⟩

/-- A Pop from where a Push left SP brings it back. -/
theorem State.sp_of_pop_after_push {s t : State} (v : Byte) (sp : t.reg .r7 = (s.push v).reg .r7) :
    t.reg .r7 + 1 = s.reg .r7 := by
  rw [sp, State.reg_push_sp, sub_add_cancel]

/-- Settles O23: the register popped holds the byte pushed, SP is back, and the Pop erases nothing. -/
theorem pushPopRoundTrip : Obligations.PushPopRoundTrip := by
  intro s a notSp
  refine ⟨_, _, exec_push_operand a s, exec_pop_operand a _, fun q _ => ?regs, s.readMem_push_below _,
    sameMemBut_push_below s _⟩
  by_cases isSp : q = .r7
  · subst isSp
    exact (State.reg_popReg_sp _ notSp).trans (State.sp_of_pop_after_push (s.reg a) rfl)
  by_cases isA : q = a
  · subst isA
    exact (State.reg_popReg_self _ q).trans (s.readMem_push_sp _)
  have kept : q ∉ [a, .r7] := by simp [isA, isSp]
  exact (sameRegsBut_popReg _ a q kept).trans (State.reg_setReg_ne s _ isSp)

/-- Settles O25: RET pops the byte CALL pushed, and SP is back. -/
theorem callReturnResumes : Obligations.CallReturnResumes := by
  refine fun s a => ⟨_, exec_call_operand a s, fun u sp byte => ⟨_, exec_ret u, ?pc, ?sp⟩⟩
  case pc =>
    have popped : u.readMem (u.reg .r7) = s.pc + 2 := by
      rw [sp, byte]
      exact s.readMem_push_sp _
    exact popped
  case sp => exact u.reg_pop_sp.trans (State.sp_of_pop_after_push (s.pc + 2) sp)

/-! ### IRET -/

theorem exec_iret (s : State) : exec .iret s = .next s.returnFromInterrupt := rfl

/-- Settles O22: IRET as one update of the state. -/
theorem interruptReturnRestores : Obligations.InterruptReturnRestores := by
  refine ⟨decode_of_f0 rfl, fun s => ⟨_, exec_iret s, ?_⟩⟩
  rw [State.returnFromInterrupt_eq]
  exact ⟨rfl, rfl, rfl, rfl, rfl, rfl, rfl, BitVec.toNat_setWidth 3 _, rfl, rfl, rfl, fun _ => rfl, rfl, rfl, rfl, rfl,
    rfl, ⟨rfl, rfl, rfl, rfl, rfl, rfl, rfl, rfl⟩⟩

end Sys2Proof.Machine
end

section
/-! The step: which agent moves (rules R8, R83), and what EX runs (rule R134). -/

namespace Sys2Proof

/-- What decodes was built by its opcode's row from the two bytes after the opcode. -/
theorem decodeOp_of_decode {op : Byte} {tail rest : List Byte} {i : Instr} (decoded : decode (op :: tail) = .ok i rest) :
    decodeOp op (tail.getD 0 0) (tail.getD 1 0) = some i := by
  simp only [decode] at decoded
  split at decoded
  · cases decoded
  · next j found =>
    split at decoded
    · cases decoded
    · cases decoded
      exact found

end Sys2Proof

namespace Sys2Proof.Machine

/-! ### Who moves -/

theorem step_of_engine {s : State} (moves : s.mover = some .engine) : step s = engineStep s.takeTurn := by
  simp [step, nextAction, moves]

theorem step_of_source {s : State} {p : Poll} (moves : s.mover = some (.source p)) :
    step s = .next (sourceCycle p s.takeTurn) := by
  simp [step, nextAction, moves]

/-- The state with the next free block of turns listed. -/
def State.drawBlock (s : State) : State := { s with schedule := freeBlock s.drawn, drawn := s.drawn + 1 }

theorem State.turns_drawBlock (s : State) : s.drawBlock.turns = freeBlock s.drawn :=
  State.turns_of_ne_nil (freeBlock_ne_nil s.drawn)

/-- With no turn listed, the step is the one with the next free block listed (log entry 1). -/
theorem step_of_nil {s : State} (unlisted : s.schedule = []) : step s = step s.drawBlock := by
  have sameMover : s.mover = s.drawBlock.mover := by
    unfold State.mover
    rw [State.turns_of_nil unlisted, State.turns_drawBlock]
    rfl
  have sameTurn : s.takeTurn = s.drawBlock.takeTurn := by
    have listed : ¬ s.drawBlock.schedule = [] := freeBlock_ne_nil s.drawn
    rw [State.takeTurn, State.takeTurn, State.turns_of_nil unlisted, State.turns_drawBlock, if_pos unlisted, if_neg listed]
    rfl
  rw [step, step, nextAction, nextAction, sameMover, sameTurn]
  rfl

/-- Settles O36: the mover by the first turn to come and the two agents' moves. -/
theorem stepInterleavesAgents : Obligations.StepInterleavesAgents := by
  refine ⟨fun s p rest listed live => ?source, fun s rest listed unfinished => ?engine, fun s => step_of_nil,
    fun s p rest listed ended unfinished => ?engineForSource, fun s rest listed finished live => ?sourceForEngine⟩
  all_goals
    have turns : s.turns = _ :: rest := (State.turns_of_ne_nil (by simp [listed])).trans listed
    rw [← State.takeTurn_of_cons listed]
  case source => exact step_of_source (by simp [State.mover, turns, live])
  case engine => exact step_of_engine (by simp [State.mover, turns, unfinished])
  case engineForSource => exact step_of_engine (by simp [State.mover, turns, ended, unfinished])
  case sourceForEngine => exact step_of_source (by simp [State.mover, turns, finished, live])

/-! ### What EX runs -/

/-- Settles O35: the engine's move at EX fetches what the three bytes at the PC decode to. -/
theorem stepRunsDecoded : Obligations.StepRunsDecoded := by
  intro s i rest moves running p decoded
  have fetched : s.fetched = some i := decodeOp_of_decode decoded
  have inLoop : s.takeTurn.leftLoop = false := State.leftLoop_of_running running
  rw [step_of_engine moves, engineStep_of_ex inLoop p, actionEX, takeTurn_fetched, fetched]
  rfl

end Sys2Proof.Machine
end
